-- ==== Sys2Proof/Word.lean ====
section
/-! DEFINITION. The word, byte and address types of SHA256-CORE (spec 00_scope.md R9, R11, R13). -/

namespace Sys2Proof

/-- R13: a word is an unsigned integer in `0 .. 2^32-1`, bit 0 least significant; its arithmetic is
modulo `2^32` (R18). -/
abbrev Word := BitVec 32

/-- R13: a byte is an unsigned integer in `0 .. 255`. -/
abbrev Byte := BitVec 8

/-- R11: a host address is 8 bits and names one 32-bit register. -/
abbrev Addr := BitVec 8

/-- R18: a Block is exactly 16 words. -/
abbrev Block := Vector Word 16

/-- R18: a HashState is exactly 8 words. -/
abbrev HashState := Vector Word 8

/-- R18: a Schedule is exactly 64 words. -/
abbrev Schedule := Vector Word 64

/-- R16 `add32` of two terms; addition modulo `2^32` is associative, so a longer sum is a chain. -/
abbrev add32 (x y : Word) : Word := x + y

/-- R14 `zext_32(b)`: the byte as a word, upper 24 bits zero. -/
abbrev zext32 (b : Byte) : Word := b.setWidth 32

end Sys2Proof
end

