-- ==== Sys2Proof/Config.lean ====
section
/-! DEFINITION. The fixed sizes of SHA256-CORE (spec 00_scope.md R9, R10, R11) and the bound of `pad` (41_padder_parser.md R115).
The two open parameters of R12 are not here: `N_INSTANCES` is an argument of Machine/Instances.lean, `LATENCY` has no
place in a model without time (70_reset_and_hazards.md R205). The ROM tables stand in Machine/Rom.lean. -/

namespace Sys2Proof.Config

/-- R10: `wordSize` is fixed at 4 bytes. -/
abbrev wordSize : Nat := 4

/-- R11: the byte buffer holds 64 bytes, one Block. -/
abbrev byteBufferSize : Nat := 64

/-- R11: the word buffer holds 16 words, one Block. -/
abbrev wordBufferSize : Nat := 16

/-- R9: the compression has 64 rounds. -/
abbrev rounds : Nat := 64

/-- R9: 48 schedule positions are computed, 16 to 63. -/
abbrev computedPositions : Nat := 48

/-- 41_padder_parser.md R115: `pad` is defined only below `2^61` bytes. -/
abbrev messageBound : Nat := 2 ^ 61

end Sys2Proof.Config
end

