-- ==== Sys2Proof/Syntax.lean ====
section
/-! DEFINITION. The seven commands of SHA256-CORE (spec 30_encoding.md R71), one constructor per row of opcode_table.json. -/

namespace Sys2Proof

/-- The commands. The one operand a command may have is its `ARG` field, "an unsigned 8-bit integer
used as is" (R72); which values are legal is Sys2Proof/WellFormed.lean. -/
inductive Instr where
  /-- `B2W len` (40_codec.md R92): bytes of `BB` to words of `M`. -/
  | b2w (len : BitVec 8)
  /-- `W2B src` (40_codec.md R94): words of `M` (`src = 0`) or `H` (`src = 1`) to bytes of `BB`. -/
  | w2b (src : BitVec 8)
  /-- `ROTR` (40_codec.md R97): rotate `OPA` right by `AMT` into `RES`. -/
  | rotr
  /-- `EXPAND` (42_schedule_expander.md R122): the Block in `M` to the Schedule in `W`. -/
  | expand
  /-- `COMPRESS` (43_compressor.md R134): fold the Schedule into the HashState. -/
  | compress
  /-- `INIT` (43_compressor.md R131): create the HashState from the ROM. -/
  | init
  /-- `RST` (44_system.md R150): reset. -/
  | rst
  deriving DecidableEq, Repr

end Sys2Proof
end

