-- ==== Sys2Proof/WellFormed.lean ====
section
/-! DEFINITION. Which commands have a legal operand (spec 30_encoding.md R72). -/

namespace Sys2Proof

/-- R72: legal values of `len` are 0 to 64 (those that are no multiple of 4 are legal encodings that
raise `E_LEN`), of `src` 0 and 1. -/
def Instr.wellFormed : Instr → Bool
  | .b2w len => decide (len.toNat ≤ Config.byteBufferSize)
  | .w2b src => decide (src.toNat ≤ 1)
  | .rotr => true
  | .expand => true
  | .compress => true
  | .init => true
  | .rst => true

end Sys2Proof
end

