-- ==== Sys2Proof/Decode.lean ====
section
/-! DEFINITION. The decoder, total on all `2^32` command words and rejecting by name, and after it the encoder
(spec 30_encoding.md R70 to R75). -/

namespace Sys2Proof

/-- Why a word is no command (R74), in the order R169 (3) tests: `RSV`, then `OPC`, then `ARG`.
All three raise `E_OPC`. -/
inductive Illegal where
  /-- `RSV != 0` -/
  | reserved
  /-- an `OPC` that is not one of `0x01..0x06`, `0xFF` -/
  | opcode
  /-- a legal `OPC` with `ARG` out of range (R72) -/
  | operand
  deriving DecidableEq, Repr

/-- What decoding makes of a word: "every word either selects exactly one command with legal
operand, or is illegal" (R73). -/
inductive Decoded where
  | command (i : Instr)
  | illegal (why : Illegal)
  deriving DecidableEq, Repr

/-- R70: `OPC`, bits 7:0. -/
def opcField (c : Word) : BitVec 8 := c.extractLsb' 0 8

/-- R70: `ARG`, bits 15:8. -/
def argField (c : Word) : BitVec 8 := c.extractLsb' 8 8

/-- R70: `RSV`, bits 31:16. -/
def rsvField (c : Word) : BitVec 16 := c.extractLsb' 16 16

/-- R72: a command without operand needs `ARG = 0`. -/
def noOperand (arg : BitVec 8) (i : Instr) : Decoded :=
  if arg = 0 then .command i else .illegal .operand

/-- The decoder of R73. -/
def decode (c : Word) : Decoded :=
  let opc := opcField c
  let arg := argField c
  if rsvField c ≠ 0 then .illegal .reserved
  else if opc = 0x01 then
    if arg.toNat > Config.byteBufferSize then .illegal .operand else .command (.b2w arg)
  else if opc = 0x02 then
    if arg.toNat > 1 then .illegal .operand else .command (.w2b arg)
  else if opc = 0x03 then noOperand arg .rotr
  else if opc = 0x04 then noOperand arg .expand
  else if opc = 0x05 then noOperand arg .compress
  else if opc = 0x06 then noOperand arg .init
  else if opc = 0xFF then noOperand arg .rst
  else .illegal .opcode

/-- R70, R71: the `OPC` of a command. -/
def Instr.opcode : Instr → BitVec 8
  | .b2w _ => 0x01
  | .w2b _ => 0x02
  | .rotr => 0x03
  | .expand => 0x04
  | .compress => 0x05
  | .init => 0x06
  | .rst => 0xFF

/-- R72: the `ARG` of a command. -/
def Instr.operand : Instr → BitVec 8
  | .b2w len => len
  | .w2b src => src
  | .rotr => 0
  | .expand => 0
  | .compress => 0
  | .init => 0
  | .rst => 0

/-- The command word of a command (R70): `RSV = 0`, then `ARG`, then `OPC`. -/
def encode (i : Instr) : Word := (0#16 ++ i.operand : BitVec 24) ++ i.opcode

/-- The instruction the decoder reads from a word of the opcode table; a command is one 32-bit word
(R75), bits above `nbits` are zero. -/
def decodeTableWord (nbits w : Nat) : Option Instr :=
  match decode (BitVec.ofNat 32 (w % 2 ^ nbits)) with
  | .command i => some i
  | .illegal _ => none

end Sys2Proof
end

