-- ==== Sys2Proof/Machine/State.lean ====
section
/-! DEFINITION. The state of one instance of SHA256-CORE (spec 10_state.md R20), the host's port beside it, and the
state after reset (R38). The ROM is no field: "The ROM contents are configuration constants" (R39), see Machine/Rom.lean. -/

namespace Sys2Proof.Machine

/-- R32: the fault code in `ERR`. "values 5 to 7 never occur; a model's error type has four
constructors plus none" (93_implementation_defined.md U9). -/
inductive ErrCode where
  /-- code 0: no fault latched -/
  | noFault
  /-- code 1, R161: a length that is no multiple of the word or block size -/
  | eLen
  /-- code 2, R162: a command needs an entity that does not exist -/
  | eSeq
  /-- code 3, R163: an illegal command word -/
  | eOpc
  /-- code 4, R164: an illegal host access -/
  | eAcc
  deriving DecidableEq, Repr

/-- R76: a host transaction is a record; "A model represents them as two constructors of a
transaction type". -/
inductive Transaction where
  | wr (addr : Addr) (data : Word)
  | rd (addr : Addr)
  deriving DecidableEq, Repr

/-- What can reach an instance: a host transaction, or the reset input, "an event in the instance's
transaction order" (70_reset_and_hazards.md R190). -/
inductive HostEvent where
  | transaction (t : Transaction)
  | resetInput
  deriving DecidableEq, Repr

/-- R50: what a transaction returns. -/
inductive Response where
  | wr (err : Bool)
  | rd (err : Bool) (data : Word)
  deriving DecidableEq, Repr

/-- One instance (R20), and the host's side of its port as plain data: DESIGN CHOICE, log entries 1
and 2. -/
@[ext]
structure State where
  /-- `H[0..7]`, the HashState (R21) -/
  h : Vector Word 8
  /-- `V[0..7]`, the WorkingVariables a..h (R23) -/
  v : Vector Word 8
  /-- `M[0..15]`, the word buffer (R25) -/
  m : Vector Word 16
  /-- `MLEN`, the number of valid words of `M` (R28), 5 bits, values 0 to 16 -/
  mlen : BitVec 5
  /-- `W[0..63]`, the Schedule (R26) -/
  w : Vector Word 64
  /-- `BB[0..63]`, the byte buffer (R29) -/
  bb : Vector Byte 64
  /-- `OPA`, the rotate operand (R24) -/
  opa : Word
  /-- `AMT`, the rotate amount (R24) -/
  amt : Word
  /-- `RES`, the rotate result (R24) -/
  res : Word
  /-- `HV`: a HashState exists (R28) -/
  hv : Bool
  /-- `WV`: a Schedule exists (R28) -/
  wv : Bool
  /-- `FAULT`: a fault is latched, the core is locked (R28) -/
  fault : Bool
  /-- `ERR`, the fault code (R32) -/
  err : ErrCode
  /-- `EINFO`, the fault information (R32) -/
  einfo : Word
  /-- the model's own: the events the host has still to issue, in issue order (R62) -/
  pending : List HostEvent
  /-- the model's own: the responses the host has received, in order -/
  responses : List Response
  deriving DecidableEq, Repr

/-- R38, R191: every writable element zero, not locked; no event to come, no response received. -/
def State.reset : State where
  h := Vector.replicate 8 0
  v := Vector.replicate 8 0
  m := Vector.replicate 16 0
  mlen := 0
  w := Vector.replicate 64 0
  bb := Vector.replicate 64 0
  opa := 0
  amt := 0
  res := 0
  hv := false
  wv := false
  fault := false
  err := .noFault
  einfo := 0
  pending := []
  responses := []

/-- The reasons for which a step of the model stops with a fault: none. Every fault of this hardware
is latched and answered with `err = 1` (R160, R166), so it is a next state, and decoding is total
(R73). Safe: nothing raises it. -/
inductive Fault where
  deriving DecidableEq, Repr

/-- The reasons for which the model gives an instruction no meaning. -/
inductive Refusal where
  /-- raised by an arm of `exec` whose instruction has no meaning yet (no arm does); safe -/
  | notModelled (mnemonic : String)
  deriving DecidableEq, Repr

end Sys2Proof.Machine
end

