-- ==== Sys2Proof/Machine/Flags.lean ====
section
/-! DEFINITION. The flags and fault registers as a host reads them (spec 10_state.md R31, R32). There are no arithmetic
condition codes (R28). -/

namespace Sys2Proof.Machine

/-- R32: the three bits of `ERR`. -/
def ErrCode.code : ErrCode → BitVec 3
  | .noFault => 0
  | .eLen => 1
  | .eSeq => 2
  | .eOpc => 3
  | .eAcc => 4

/-- R31: `STATUS = {0[18:0], MLEN[4:0], 0[4:0], FAULT, WV, HV}`. -/
def State.statusWord (s : State) : Word :=
  ((((0#19 ++ s.mlen : BitVec 24) ++ 0#5 : BitVec 29) ++ BitVec.ofBool s.fault : BitVec 30)
    ++ BitVec.ofBool s.wv : BitVec 31) ++ BitVec.ofBool s.hv

/-- R32: `ERR`, bits 31:3 read as zero. -/
def State.errWord (s : State) : Word := 0#29 ++ s.err.code

/-- R32, R55: the `EINFO` of an illegal access, `{0[22:0], w, addr[7:0]}`, `w = 1` for a `WR`. -/
def accessInfo (write : Bool) (addr : Addr) : Word :=
  (0#23 ++ BitVec.ofBool write : BitVec 24) ++ addr

end Sys2Proof.Machine
end

