-- ==== Sys2Proof/Machine/Operands.lean ====
section
/-! DEFINITION. The word primitives (spec 00_scope.md R16), the six SHA-256 functions (R17) and the operand forms of the
commands: the rotate amount (40_codec.md R98), a word of the byte buffer (R92), words serialised into the byte
buffer (R94). -/

namespace Sys2Proof.Machine

/-- R16 `shr(x, n)`: zeros enter at the top, "plain right shift, not rotation". -/
def shr (x : Word) (n : Nat) : Word := x >>> n

/-- R16 `rotr(x, r)` for `0 <= r <= 31`. -/
def rotr (x : Word) (r : Nat) : Word :=
  if r = 0 then x else shr x r ||| x <<< (32 - r)

/-- R16 `be32`: big-endian assembly of four bytes, the first the most significant. -/
def be32 (b0 b1 b2 b3 : Byte) : Word :=
  ((b0 ++ b1 : BitVec 16) ++ b2 : BitVec 24) ++ b3

/-- R16 `byte_k(x) = x[31-8k : 24-8k]`, `k = 0..3`; `byte_0` is the most significant byte. -/
def byteK (k : Nat) (x : Word) : Byte := x.extractLsb' (24 - 8 * k) 8

/-- R17, the source's σ0. -/
def ssig0 (x : Word) : Word := rotr x 7 ^^^ rotr x 18 ^^^ shr x 3

/-- R17, the source's σ1. -/
def ssig1 (x : Word) : Word := rotr x 17 ^^^ rotr x 19 ^^^ shr x 10

/-- R17, the source's Σ0. -/
def bsig0 (x : Word) : Word := rotr x 2 ^^^ rotr x 13 ^^^ rotr x 22

/-- R17, the source's Σ1. -/
def bsig1 (x : Word) : Word := rotr x 6 ^^^ rotr x 11 ^^^ rotr x 25

/-- R17 `ch`. -/
def ch (e f g : Word) : Word := g ^^^ (e &&& (f ^^^ g))

/-- R17 `maj`. -/
def maj (a b c : Word) : Word := (a &&& b) ||| (a &&& c) ||| (b &&& c)

/-- R97, R98: the effective rotate amount is `AMT[4:0]`. -/
def rotateAmount (amt : Word) : Nat := (amt.extractLsb' 0 5).toNat

/-- R57, R92: word `j` of the byte sequence in `BB`. -/
def State.bbWord (s : State) (j : Fin 16) : Word :=
  be32 s.bb[4 * j.val] s.bb[4 * j.val + 1] s.bb[4 * j.val + 2] s.bb[4 * j.val + 3]

/-- R92: `M` after its first `count` words are assembled from `BB`; the others keep their content.
(Irreducible: `loadedWords_getElem` of Laws/Ops.lean says what it is.) -/
@[irreducible] def State.loadedWords (s : State) (count : Nat) : Vector Word 16 :=
  Vector.ofFn fun j : Fin 16 => if j.val < count then s.bbWord j else s.m[j]

/-- R94: `BB` after the first `count` of `words` are written as bytes `BB[4j + k] <- byte_k(words[j])`;
bytes at and beyond `4 * count` keep their content. (Irreducible: `serialise_getElem` of Laws/Ops.lean says what
it is.) -/
@[irreducible] def serialise {n : Nat} (words : Vector Word n) (count : Nat) (bb : Vector Byte 64) : Vector Byte 64 :=
  Vector.ofFn fun i : Fin 64 =>
    if h : i.val < 4 * count ∧ i.val / 4 < n then byteK (i.val % 4) words[i.val / 4] else bb[i]

end Sys2Proof.Machine
end

