-- ==== Sys2Proof/Machine/Ops.lean ====
section
/-! DEFINITION. The named operations on State that the meanings share: fault entry (spec 60_exceptions.md R166, R168),
reset, the only return from it (R170), the lock check (R169), and the updates of the registers. -/

namespace Sys2Proof.Machine

/-- R166: the three writes of fault entry, "and nothing else". -/
def State.latch (s : State) (e : ErrCode) (info : Word) : State :=
  { s with fault := true, err := e, einfo := info }

/-- `raise E(info)` (R15, R160, R166). "While `FAULT = 1` no fault is entered" (R168). -/
def State.raise (s : State) (e : ErrCode) (info : Word) : State :=
  if s.fault then s else s.latch e info

/-- R150, R190, R193: reset, "the only return from the locked state" (R170). It resets the instance;
what the host has still to issue and what it has received are the host's. -/
def State.resetCore (s : State) : State :=
  { State.reset with pending := s.pending, responses := s.responses }

/-- R169 (1), R54: a locked core performs no command: it rejects without any state change. `t` is the
state the command gives an unlocked core. DEDUCED: the spec tests the lock in `WR` (R151), before
the command's own rule; log entry 8. -/
def State.ifUnlocked (s t : State) : State := if s.fault then s else t

/-- R50: a transaction returns a response to the host. -/
def State.respond (s : State) (r : Response) : State :=
  { s with responses := s.responses ++ [r] }

/-- R62: the host issues its next event; `rest` is what it has still to issue. -/
def State.issued (s : State) (rest : List HostEvent) : State := { s with pending := rest }

/-- R53: `OPA <- data`. -/
def State.setOpa (s : State) (data : Word) : State := { s with opa := data }

/-- R53: `AMT <- data`. -/
def State.setAmt (s : State) (data : Word) : State := { s with amt := data }

/-- R56: `BB[i] <- data[7:0]`; bits 31:8 are ignored. -/
def State.setByte (s : State) (i : Fin 64) (data : Word) : State :=
  { s with bb := s.bb.set i (data.extractLsb' 0 8) }

/-- R92: `M[j] <- be32(BB[4j], ..)` for the first `count` words; `MLEN <- count`. -/
def State.loadWords (s : State) (count : Nat) : State :=
  { s with m := s.loadedWords count, mlen := BitVec.ofNat 5 count }

/-- R94: the byte buffer written by `W2B`. -/
def State.storeBytes (s : State) (bb : Vector Byte 64) : State := { s with bb := bb }

/-- R97: `RES` written by `ROTR`. -/
def State.setRes (s : State) (r : Word) : State := { s with res := r }

/-- R122: the Schedule written, `WV <- 1`, and the Block consumed, `MLEN <- 0`. -/
def State.loadSchedule (s : State) (w : Schedule) : State := { s with w := w, wv := true, mlen := 0 }

/-- R131: the HashState created, `HV <- 1`. -/
def State.createHash (s : State) (h : HashState) : State := { s with h := h, hv := true }

/-- R134: the working variables of after round 63 kept, the HashState replaced, the Schedule
discarded, `WV <- 0`. -/
def State.foldHash (s : State) (v h : HashState) : State := { s with v := v, h := h, wv := false }

end Sys2Proof.Machine
end

