-- ==== Sys2Proof/Machine/Codec.lean ====
section
/-! DEFINITION. The Word/Byte Codec: the functions bytesToWords, wordsToBytes, circularRotateRight (spec 40_codec.md R91,
R93, R96) and the commands B2W (R92), W2B (R94), ROTR (R97). -/

namespace Sys2Proof.Machine

/-- R91: the big-endian words of consecutive 4-byte groups; a last group of fewer bytes gives none. -/
def groupWords : List Byte → List Word
  | b0 :: b1 :: b2 :: b3 :: rest => be32 b0 b1 b2 b3 :: groupWords rest
  | _ => []

/-- R91: none is the source's `InvalidLengthError`, for a length that is no multiple of `wordSize`. -/
def bytesToWords (bytes : List Byte) : Option (List Word) :=
  if bytes.length % Config.wordSize = 0 then some (groupWords bytes) else none

/-- R93: the four big-endian bytes of a word. -/
def wordBytes (x : Word) : List Byte := [byteK 0 x, byteK 1 x, byteK 2 x, byteK 3 x]

/-- R93: the bytes of the words, concatenated in order. -/
def wordsToBytes (words : List Word) : List Byte := words.flatMap wordBytes

/-- R96: `amount` is any integer, reduced to its non-negative remainder mod 32. -/
def circularRotateRight (x : Word) (amount : Int) : Word := rotr x (amount % 32).toNat

/-- R92. The information word of a fault is the command word (R161, R163). -/
def execB2w (len : BitVec 8) (s : State) : Host.Outcome State Fault Refusal :=
  .next <| s.ifUnlocked <|
    if len.toNat > Config.byteBufferSize then s.raise .eOpc (encode (.b2w len))
    else if len.toNat % Config.wordSize ≠ 0 then s.raise .eLen (encode (.b2w len))
    else s.loadWords (len.toNat / Config.wordSize)

/-- R94. -/
def execW2b (src : BitVec 8) (s : State) : Host.Outcome State Fault Refusal :=
  .next <| s.ifUnlocked <|
    if src.toNat > 1 then s.raise .eOpc (encode (.w2b src))
    else if src.toNat = 1 ∧ s.hv = false then s.raise .eSeq (encode (.w2b src))
    else if src.toNat = 0 then s.storeBytes (serialise s.m s.mlen.toNat s.bb)
    else s.storeBytes (serialise s.h 8 s.bb)

/-- R97. -/
def execRotr (s : State) : Host.Outcome State Fault Refusal :=
  .next <| s.ifUnlocked <| s.setRes (rotr s.opa (rotateAmount s.amt))

end Sys2Proof.Machine
end

