-- ==== Sys2Proof/Machine/Compressor.lean ====
section
/-! DEFINITION. The Compressor: the round (spec 43_compressor.md R132), the function compressBlock (R133) and the commands
INIT (R131) and COMPRESS (R134). -/

namespace Sys2Proof.Machine

/-- R132: one round with round constant `k` and schedule word `w` on the working variables
`a..h = v[0]..v[7]` (R136); all eight new values from the eight old ones (R204). -/
def compressRound (k w : Word) (v : HashState) : HashState :=
  let t1 := add32 (add32 (add32 (add32 v[7] (bsig1 v[4])) (ch v[4] v[5] v[6])) k) w
  let t2 := add32 (bsig0 v[0]) (maj v[0] v[1] v[2])
  #v[add32 t1 t2, v[0], v[1], v[2], add32 v[3] t1, v[4], v[5], v[6]]

/-- R133: the working variables after rounds 0 to 63, in that order; round `i` uses `K[i]` and word
`i` of the schedule (R137). (Irreducible, as `expand` is.) -/
@[irreducible] def compressRounds (schedule : Schedule) (v : HashState) : HashState :=
  Nat.fold Config.rounds (fun i _ v => compressRound Rom.k[i] schedule[i] v) v

/-- R133: the fold, position by position. (Irreducible: `addState_getElem` of Laws/Word.lean says what it is.) -/
@[irreducible] def addState (state working : HashState) : HashState :=
  Vector.ofFn fun j : Fin 8 => add32 state[j] working[j]

/-- R133: `compressBlock(state, schedule)`. -/
def compressBlock (state : HashState) (schedule : Schedule) : HashState :=
  addState state (compressRounds schedule state)

/-- R131. No precondition. -/
def execInit (s : State) : Host.Outcome State Fault Refusal :=
  .next <| s.ifUnlocked <| s.createHash Rom.h0

/-- R134. -/
def execCompress (s : State) : Host.Outcome State Fault Refusal :=
  .next <| s.ifUnlocked <|
    if s.hv = false ∨ s.wv = false then s.raise .eSeq (encode .compress)
    else s.foldHash (compressRounds s.w s.h) (compressBlock s.h s.w)

end Sys2Proof.Machine
end

