-- ==== Sys2Proof/Machine/Expander.lean ====
section
/-! DEFINITION. The Schedule Expander: the function expand (spec 42_schedule_expander.md R121) and the command EXPAND (R122). -/

namespace Sys2Proof.Machine

/-- R121: the first `16 + n` positions of the schedule of a block. Position `i = 16 + n` reads
positions `i-16 = n`, `i-15`, `i-7`, `i-2`, all computed before (R123). -/
def schedulePositions (block : Block) : (n : Nat) → Vector Word (16 + n)
  | 0 => block
  | n + 1 =>
    let s := schedulePositions block n
    s.push (add32 (add32 (add32 s[n] (ssig0 s[n + 1])) s[n + 9]) (ssig1 s[n + 14]))

/-- R121: `expand(block)`, 16 words copied and 48 computed. (Irreducible: no proof computes a schedule by
unification; the lemmas of Laws/Word.lean say what it is.) -/
@[irreducible] def expand (block : Block) : Schedule := schedulePositions block Config.computedPositions

/-- R122. `WV` and `HV` are no preconditions. -/
def execExpand (s : State) : Host.Outcome State Fault Refusal :=
  .next <| s.ifUnlocked <|
    if s.mlen = 0 then s.raise .eSeq (encode .expand)
    else if s.mlen ≠ 16 then s.raise .eLen (encode .expand)
    else s.loadSchedule (expand s.m)

end Sys2Proof.Machine
end

