-- ==== Sys2Proof/Machine/System.lean ====
section
/-! DEFINITION. The system command RST (spec 44_system.md R150). -/

namespace Sys2Proof.Machine

/-- R150: "the only command accepted while `FAULT = 1`"; it never faults. -/
def execRst (s : State) : Host.Outcome State Fault Refusal := .next s.resetCore

end Sys2Proof.Machine
end

