-- ==== Sys2Proof/Machine/Dispatch.lean ====
section
/-! DEFINITION. The meaning of each command (spec 30_encoding.md R71), one arm per row of opcode_table.json. -/

namespace Sys2Proof.Machine

def exec (i : Instr) (s : State) : Host.Outcome State Fault Refusal :=
  match i with
  | .b2w len => Sys2Proof.Machine.execB2w len s
  | .w2b src => Sys2Proof.Machine.execW2b src s
  | .rotr => Sys2Proof.Machine.execRotr s
  | .expand => Sys2Proof.Machine.execExpand s
  | .compress => Sys2Proof.Machine.execCompress s
  | .init => Sys2Proof.Machine.execInit s
  | .rst => Sys2Proof.Machine.execRst s

end Sys2Proof.Machine
end

