-- ==== Sys2Proof/Machine/RegMap.lean ====
section
/-! DEFINITION. The address map (spec 20_memory.md R51) and what a read of a register returns (44_system.md R152). -/

namespace Sys2Proof.Machine

/-- R51: the registers of the 256-address map; the 17 reserved addresses name none. -/
inductive Reg where
  | cmd
  | status
  | err
  | einfo
  | opa
  | amt
  | res
  | h (i : Fin 8)
  | v (i : Fin 8)
  | h0 (i : Fin 8)
  | m (i : Fin 16)
  | w (i : Fin 64)
  | k (i : Fin 64)
  | bb (i : Fin 64)
  deriving DecidableEq, Repr

/-- R51: the register at an address; none for the reserved addresses `0x07` and `0x30..0x3F`. -/
def regAt (a : Addr) : Option Reg :=
  if a.toNat = 0x00 then some .cmd
  else if a.toNat = 0x01 then some .status
  else if a.toNat = 0x02 then some .err
  else if a.toNat = 0x03 then some .einfo
  else if a.toNat = 0x04 then some .opa
  else if a.toNat = 0x05 then some .amt
  else if a.toNat = 0x06 then some .res
  else if a.toNat = 0x07 then none
  else if h : a.toNat < 0x10 then some (.h ⟨a.toNat - 0x08, by omega⟩)
  else if h : a.toNat < 0x18 then some (.v ⟨a.toNat - 0x10, by omega⟩)
  else if h : a.toNat < 0x20 then some (.h0 ⟨a.toNat - 0x18, by omega⟩)
  else if h : a.toNat < 0x30 then some (.m ⟨a.toNat - 0x20, by omega⟩)
  else if a.toNat < 0x40 then none
  else if h : a.toNat < 0x80 then some (.w ⟨a.toNat - 0x40, by omega⟩)
  else if h : a.toNat < 0xC0 then some (.k ⟨a.toNat - 0x80, by omega⟩)
  else some (.bb ⟨a.toNat - 0xC0, by omega⟩)

/-- R51, R77: the address of a register. -/
def Reg.addr : Reg → Addr
  | .cmd => 0x00
  | .status => 0x01
  | .err => 0x02
  | .einfo => 0x03
  | .opa => 0x04
  | .amt => 0x05
  | .res => 0x06
  | .h i => BitVec.ofNat 8 (0x08 + i.val)
  | .v i => BitVec.ofNat 8 (0x10 + i.val)
  | .h0 i => BitVec.ofNat 8 (0x18 + i.val)
  | .m i => BitVec.ofNat 8 (0x20 + i.val)
  | .w i => BitVec.ofNat 8 (0x40 + i.val)
  | .k i => BitVec.ofNat 8 (0x80 + i.val)
  | .bb i => BitVec.ofNat 8 (0xC0 + i.val)

/-- R152: the value of a register; none for the write-only `CMD`. Validity flags are not consulted
(R30) and a narrow register is zero-extended (R52). -/
def State.readReg (s : State) : Reg → Option Word
  | .cmd => none
  | .status => some s.statusWord
  | .err => some s.errWord
  | .einfo => some s.einfo
  | .opa => some s.opa
  | .amt => some s.amt
  | .res => some s.res
  | .h i => some s.h[i]
  | .v i => some s.v[i]
  | .h0 i => some Rom.h0[i]
  | .m i => some s.m[i]
  | .w i => some s.w[i]
  | .k i => some Rom.k[i]
  | .bb i => some (zext32 s.bb[i])

/-- R15 `RegRead(addr)`: the value a `RD` returns; none where `addr` is not readable (R52). -/
def State.regRead (s : State) (a : Addr) : Option Word := (regAt a).bind s.readReg

end Sys2Proof.Machine
end

