-- ==== Sys2Proof/Machine/Transactions.lean ====
section
/-! DEFINITION. The host transactions WR (spec 44_system.md R151) and RD (R152) and the reset input
(70_reset_and_hazards.md R190), as operations on State. -/

namespace Sys2Proof.Machine

/-- R151: a command is executed and `err` is "1 if it raised a fault, else 0". DEDUCED: that is
`FAULT` after it, since it ran on an unlocked core or is `RST` (log entry 10). -/
def launch (i : Instr) (s : State) : Host.Outcome State Fault Refusal :=
  match exec i s with
  | .next t => .next (t.respond (.wr t.fault))
  | .fault r => .fault r
  | .refused r => .refused r

/-- R73, R74: decode and execute a command word; an illegal word raises `E_OPC(c)` and changes
nothing else. -/
def writeCommand (c : Word) (s : State) : Host.Outcome State Fault Refusal :=
  match decode c with
  | .command i => launch i s
  | .illegal _ => .next ((s.raise .eOpc c).respond (.wr true))

/-- R55: an illegal `WR`: the data is discarded and the target unchanged. -/
def rejectWrite (addr : Addr) (s : State) : Host.Outcome State Fault Refusal :=
  .next ((s.raise .eAcc (accessInfo true addr)).respond (.wr true))

/-- R151 when `FAULT = 0` (R53): the write goes to the register at the address. -/
def writeReg (addr : Addr) (data : Word) (s : State) : Host.Outcome State Fault Refusal :=
  match regAt addr with
  | some .cmd => writeCommand data s
  | some .opa => .next ((s.setOpa data).respond (.wr false))
  | some .amt => .next ((s.setAmt data).respond (.wr false))
  | some (.bb i) => .next ((s.setByte i data).respond (.wr false))
  | some .status => rejectWrite addr s
  | some .err => rejectWrite addr s
  | some .einfo => rejectWrite addr s
  | some .res => rejectWrite addr s
  | some (.h _) => rejectWrite addr s
  | some (.v _) => rejectWrite addr s
  | some (.h0 _) => rejectWrite addr s
  | some (.m _) => rejectWrite addr s
  | some (.w _) => rejectWrite addr s
  | some (.k _) => rejectWrite addr s
  | none => rejectWrite addr s

/-- R151 `WR addr, data`. Locked (R54): only the exact `RST` word is recognised, no decoding takes
place (R73), everything else is rejected without effect. -/
def execWr (addr : Addr) (data : Word) (s : State) : Host.Outcome State Fault Refusal :=
  if s.fault then
    if addr = 0x00 ∧ data = 0x000000FF then launch .rst s
    else .next (s.respond (.wr true))
  else writeReg addr data s

/-- R152 `RD addr`: performed locked or not; an unreadable address returns `err = 1`, `data = 0` and
raises `E_ACC` when `FAULT = 0` (when locked, `raise` enters no fault: R168). -/
def execRd (addr : Addr) (s : State) : Host.Outcome State Fault Refusal :=
  match s.regRead addr with
  | some data => .next (s.respond (.rd false data))
  | none => .next ((s.raise .eAcc (accessInfo false addr)).respond (.rd true 0))

/-- R153: the complete list of what reaches an instance: `WR`, `RD` and the reset input. -/
def perform (e : HostEvent) (s : State) : Host.Outcome State Fault Refusal :=
  match e with
  | .transaction (.wr addr data) => execWr addr data s
  | .transaction (.rd addr) => execRd addr s
  | .resetInput => .next s.resetCore

/-- R62: the next event in issue order is performed, "one at a time"; with none left nothing happens
("Nothing happens asynchronously", R172; log entry 3). -/
def performNext (s : State) : Host.Outcome State Fault Refusal :=
  match s.pending with
  | [] => .next s
  | e :: rest => perform e (s.issued rest)

/-- The host's next event is a `WR CMD` of the command word made of the `nbits` low bits of `w`. -/
def issueCommandWord (s : State) (nbits w : Nat) : State :=
  s.issued (.transaction (.wr 0x00 (BitVec.ofNat 32 (w % 2 ^ nbits))) :: s.pending)

end Sys2Proof.Machine
end

