-- ==== Sys2Proof/Machine/Step.lean ====
section
/-! DEFINITION. One step of the machine: the next host event performed to completion (spec 10_state.md R27,
20_memory.md R50, R62). -/

namespace Sys2Proof.Machine

/-- One step: one transaction, or the reset input, with all its effects. -/
def step (s : State) : Host.Outcome State Fault Refusal := performNext s

/-- This hardware fetches nothing (R27): its program is what the host issues. The word is put where
`step` takes its next event from: in front of the host's pending events, as `WR CMD` (log entry 5). -/
def State.withFetchWord (s : State) (nbits w : Nat) : State := issueCommandWord s nbits w

end Sys2Proof.Machine
end

