-- ==== Sys2Proof/Machine/Assembler.lean ====
section
/-! DEFINITION. The assembler notation of the host's programs (spec 30_encoding.md R77), the six pseudo-instructions (R78)
and the host program that computes a digest (43_compressor.md R141). A program is a list of transactions. -/

namespace Sys2Proof.Machine

/-- R77: a mnemonic is a `WR CMD` of its command word. -/
def asm (i : Instr) : Transaction := .wr Reg.cmd.addr (encode i)

/-- R78 `PUTB off, b0, ..`; "needs `off + n <= 64`". -/
def putB (off : Nat) (bytes : List Byte) (fits : off + bytes.length ≤ 64) : List Transaction :=
  List.ofFn fun i : Fin bytes.length =>
    .wr (Reg.bb ⟨off + i.val, by omega⟩).addr (zext32 bytes[i])

/-- R78 `PUTBLK b0 .. b63`. -/
def putBlk (bytes : Vector Byte 64) : List Transaction := putB 0 bytes.toList (by simp)

/-- R78 `GETB n`. -/
def getB (n : Nat) (fits : n ≤ 64) : List Transaction :=
  List.ofFn fun i : Fin n => .rd (Reg.bb ⟨i.val, by omega⟩).addr

/-- R78 `HASHBLK`: one pass of the source's loop. -/
def hashBlk : List Transaction := [asm (.b2w 64), asm .expand, asm .compress]

/-- R78 `GETDIGEST`. -/
def getDigest : List Transaction := asm (.w2b 1) :: getB 32 (by decide)

/-- R78 `ROTRI x, amt`, `amt` any integer in `-2^31 .. 2^31-1`. -/
def rotrI (x : Word) (amt : Int) : List Transaction :=
  [.wr Reg.opa.addr x, .wr Reg.amt.addr (BitVec.ofInt 32 amt), asm .rotr, .rd Reg.res.addr]

/-- R141: the bytes `p[64t] .. p[64t+63]` of block `t`, for every block of `p`. -/
def byteBlocks (p : List Byte) : List (Vector Byte 64) :=
  List.ofFn fun t : Fin (p.length / 64) => Vector.ofFn fun i : Fin 64 => p[64 * t.val + i.val]

/-- R141: the host program that computes the digest of the message padded to `p`. -/
def digestTransactions (p : List Byte) : List Transaction :=
  asm .init :: (byteBlocks p).flatMap (fun b => putBlk b ++ hashBlk) ++ getDigest

end Sys2Proof.Machine
end

