-- ==== Sys2Proof/Machine/Padder.lean ====
section
/-! DEFINITION. The Padder/Parser, reference procedures of the host and no part of the hardware (spec 00_scope.md R5,
41_padder_parser.md R110): pad (R111) and parseBlocks (R113), pure functions beside the machine. -/

namespace Sys2Proof.Machine

/-- R111: `z = (55 - L) mod 64`, the non-negative remainder. -/
def padZeros (length : Nat) : Nat := (((55 : Int) - length) % 64).toNat

/-- R111: the message length in bits, as 8 bytes big-endian. -/
def lengthSuffix (length : Nat) : List Byte :=
  (List.range 8).map fun k => (BitVec.ofNat 64 (8 * length)).extractLsb' (56 - 8 * k) 8

/-- R111 `pad`; R115: defined only below `2^61` bytes, "a model refuses longer messages" (none). -/
def pad (message : List Byte) : Option (List Byte) :=
  if message.length < Config.messageBound then
    some (message ++ [0x80] ++ List.replicate (padZeros message.length) 0 ++ lengthSuffix message.length)
  else none

/-- R113: consecutive runs of 16 words, in order; a last run of fewer words gives none. -/
def groupBlocks : List Word → List Block
  | w0 :: w1 :: w2 :: w3 :: w4 :: w5 :: w6 :: w7 :: w8 :: w9 :: w10 :: w11 :: w12 :: w13 :: w14 :: w15 :: rest =>
    #v[w0, w1, w2, w3, w4, w5, w6, w7, w8, w9, w10, w11, w12, w13, w14, w15] :: groupBlocks rest
  | _ => []

/-- R113 `parseBlocks`; none is `InvalidLengthError`, for a length that is no multiple of 64. -/
def parseBlocks (padded : List Byte) : Option (List Block) :=
  if padded.length % 64 = 0 then (bytesToWords padded).map groupBlocks else none

end Sys2Proof.Machine
end

