-- ==== Sys2Proof/Machine/Digest.lean ====
section
/-! DEFINITION. The digest procedure of the host (spec 43_compressor.md R140) and its hexadecimal rendering (R142), pure
functions beside the machine. -/

namespace Sys2Proof.Machine

/-- R140: the HashState after the blocks, processed in order from `H0`. -/
def chain (blocks : List Block) : HashState :=
  blocks.foldl (fun state block => compressBlock state (expand block)) Rom.h0

/-- R140 `digest(message)`, 32 bytes; none only for a message of `2^61` bytes or more (R115). -/
def digest (message : List Byte) : Option (List Byte) :=
  (pad message).bind fun p => (parseBlocks p).map fun blocks => wordsToBytes (chain blocks).toList

/-- R142: the digits `0123456789abcdef`. -/
def hexDigit (n : BitVec 4) : Char :=
  if n.toNat < 10 then Char.ofNat (48 + n.toNat) else Char.ofNat (87 + n.toNat)

/-- R142: two digits a byte, `b[7:4]` first, bytes in order; the text as its list of characters. -/
def hexRender (bytes : List Byte) : List Char :=
  bytes.flatMap fun b => [hexDigit (b.extractLsb' 4 4), hexDigit (b.extractLsb' 0 4)]

end Sys2Proof.Machine
end

