-- ==== Sys2Proof/Machine/Instances.lean ====
section
/-! DEFINITION. Several instances (spec 60_exceptions.md R183, 00_scope.md R12): "a model of several is their product with
no interaction". They share only the ROM, which is no state. -/

namespace Sys2Proof.Machine

/-- R12, R183: `N_INSTANCES = n` complete copies of the state. -/
abbrev Instances (n : Nat) := Vector State n

/-- R183: every instance starts in the reset state. -/
def Instances.reset (n : Nat) : Instances n := Vector.replicate n State.reset

/-- R183: instance `k` performs its next event; no other instance is read or changed. -/
def Instances.stepAt {n : Nat} (x : Instances n) (k : Fin n) : Host.Outcome (Instances n) Fault Refusal :=
  match step x[k] with
  | .next t => .next (x.set k t)
  | .fault r => .fault r
  | .refused r => .refused r

/-- R65: an interleaving, given as the instance that performs its next event at each point. -/
def Instances.interleave {n : Nat} (x : Instances n) : List (Fin n) → Host.Outcome (Instances n) Fault Refusal
  | [] => .next x
  | k :: rest =>
    match x.stepAt k with
    | .next y => Instances.interleave y rest
    | .fault r => .fault r
    | .refused r => .refused r

end Sys2Proof.Machine
end

