-- ==== Sys2Proof/Safety.lean ====
section
/-! DEFINITION. What holds of every state a run from reset can reach (spec 10_state.md R20, R22, R26, R28, R32, R37, R38): the
invariants the statements are made with. -/

namespace Sys2Proof.Machine

/-- R20, R28, R32: `MLEN` is 0 to 16; `FAULT` says that `ERR` holds a fault code; `EINFO` is 0 when
`ERR = 0`. -/
def State.flagsSound (s : State) : Prop :=
  s.mlen.toNat ≤ 16 ∧ (s.fault = true ↔ s.err ≠ .noFault) ∧ (s.err = .noFault → s.einfo = 0)

/-- R161 to R164: the kinds of information word that can stand beside each fault code. -/
def State.einfoSound (s : State) : Prop :=
  match s.err with
  | .noFault => s.einfo = 0
  | .eLen => s.einfo = encode .expand
      ∨ ∃ len : BitVec 8, len.toNat ≤ 64 ∧ len.toNat % 4 ≠ 0 ∧ s.einfo = encode (.b2w len)
  | .eSeq => s.einfo = encode .expand ∨ s.einfo = encode .compress ∨ s.einfo = encode (.w2b 1)
  | .eOpc => ∃ why, decode s.einfo = .illegal why
  | .eAcc => ∃ write addr, s.einfo = accessInfo write addr

/-- R26, R121: while `WV = 1`, `W` is the Schedule of a Block (of its own first 16 words, "copied
verbatim"). -/
def State.scheduleSound (s : State) : Prop :=
  s.wv = true → s.w = expand (Vector.ofFn fun i : Fin 16 => s.w[i.val])

/-- R22: "there is no way to load a hash state other than the initial one" (R7): while `HV = 1`, `H`
is the state after some sequence of blocks from `H0`; while `HV = 0` it is still the reset zeros (R38). -/
def State.hashSound (s : State) : Prop :=
  (s.hv = true → ∃ blocks : List Block, s.h = chain blocks) ∧
  (s.hv = false → s.h = Vector.replicate 8 0)

/-- R19: an unlocked core. -/
def State.unlocked (s : State) : Prop := s.fault = false

/-- The instance's own state, without the host's side of the port: what R20 lists. -/
def State.sameInstance (s t : State) : Prop :=
  { s with pending := [], responses := [] } = { t with pending := [], responses := [] }

end Sys2Proof.Machine
end

