-- ==== Sys2Proof/Certificates/Slice0/Obligations.lean ====
section
/-! DEFINITION. The statements for the provers. In all of them `pending` presents the host's events and `responses` records
what it received: the model's own representation of the port (log entries 1 and 2), about which no clause claims a
rule of the spec. -/

open Sys2Proof Sys2Proof.Machine

namespace Sys2Proof.Machine

/-- The words R74 calls illegal: `RSV != 0`, an `OPC` outside `0x01..0x06`, `0xFF`, an `ARG` out of range (R72). -/
def illegalWord (c : Word) : Prop :=
  rsvField c ≠ 0 ∨
  ¬ (opcField c ∈ [0x01, 0x02, 0x03, 0x04, 0x05, 0x06, 0xFF]) ∨
  (opcField c = 0x01 ∧ 64 < (argField c).toNat) ∨
  (opcField c = 0x02 ∧ 1 < (argField c).toNat) ∨
  (opcField c ∈ [0x03, 0x04, 0x05, 0x06, 0xFF] ∧ argField c ≠ 0)

/-- R165, the complete cause table, row by row, for an unlocked core: the code and information word of
the fault an event raises; none where no row applies. -/
def causeTable (s : State) : HostEvent → Option (ErrCode × Word)
  | .resetInput => none
  | .transaction (.rd a) =>
    if a = 0x00 ∨ a = 0x07 ∨ (0x30 ≤ a.toNat ∧ a.toNat ≤ 0x3F) then some (.eAcc, BitVec.ofNat 32 a.toNat) else none
  | .transaction (.wr a c) =>
    if a = 0x00 then
      if c.toNat / 65536 ≠ 0 then some (.eOpc, c)
      else
        let opc := c.toNat % 256
        let arg := c.toNat / 256 % 256
        if opc = 0x01 then
          if 64 < arg then some (.eOpc, c) else if arg % 4 ≠ 0 then some (.eLen, c) else none
        else if opc = 0x02 then
          if 1 < arg then some (.eOpc, c) else if arg = 1 ∧ s.hv = false then some (.eSeq, c) else none
        else if opc = 0x03 ∨ opc = 0x06 ∨ opc = 0xFF then
          if arg ≠ 0 then some (.eOpc, c) else none
        else if opc = 0x04 then
          if arg ≠ 0 then some (.eOpc, c) else if s.mlen = 0 then some (.eSeq, c)
          else if s.mlen.toNat ≤ 15 then some (.eLen, c) else none
        else if opc = 0x05 then
          if arg ≠ 0 then some (.eOpc, c) else if s.hv = false ∨ s.wv = false then some (.eSeq, c) else none
        else some (.eOpc, c)
    else if a = 0x04 ∨ a = 0x05 ∨ 0xC0 ≤ a.toNat then none
    else some (.eAcc, BitVec.ofNat 32 (0x100 + a.toNat))

/-- `RD a` returns `d` without error and changes nothing, locked or not. -/
def State.readsAs (s : State) (a : Addr) (d : Word) : Prop :=
  ∀ rest, step { s with pending := .transaction (.rd a) :: rest } =
    .next { s with pending := rest, responses := s.responses ++ [.rd false d] }

/-- The host's next event is a `WR CMD` whose word decodes to `i`. -/
def State.launches (s : State) (i : Instr) : Prop :=
  ∃ c rest, s.pending = .transaction (.wr 0x00 c) :: rest ∧ decode c = .command i

/-- The host's next event resets the instance: the reset input or `RST`. -/
def State.resets (s : State) : Prop :=
  (∃ rest, s.pending = .resetInput :: rest) ∨ s.launches .rst

/-- The host's next event is a `WR` to address `a`. -/
def State.writes (s : State) (a : Addr) : Prop :=
  ∃ d rest, s.pending = .transaction (.wr a d) :: rest

/-- R30: two states that differ at most in stale content: `H` while `HV = 0`, `W` while `WV = 0`, the
words of `M` at and beyond `MLEN`, and `V`, which no operation reads (R23). -/
def State.sameValid (s t : State) : Prop :=
  (s.mlen, s.bb, s.opa, s.amt, s.res, s.hv, s.wv) = (t.mlen, t.bb, t.opa, t.amt, t.res, t.hv, t.wv) ∧
  (s.fault, s.err, s.einfo, s.pending, s.responses) = (t.fault, t.err, t.einfo, t.pending, t.responses) ∧
  (s.hv = true → s.h = t.h) ∧ (s.wv = true → s.w = t.w) ∧
  ∀ j : Fin 16, j.val < s.mlen.toNat → s.m[j] = t.m[j]

/-- R61: the addresses a command may change: the registers it writes, and `STATUS`, `ERR`, `EINFO`. -/
def commandFootprint (i : Instr) (a : Addr) : Prop :=
  a = 0x01 ∨ a = 0x02 ∨ a = 0x03 ∨
  match i with
  | .b2w _ => 0x20 ≤ a.toNat ∧ a.toNat ≤ 0x2F
  | .w2b _ => 0xC0 ≤ a.toNat
  | .rotr => a = 0x06
  | .expand => 0x40 ≤ a.toNat ∧ a.toNat ≤ 0x7F
  | .compress => 0x08 ≤ a.toNat ∧ a.toNat ≤ 0x17
  | .init => 0x08 ≤ a.toNat ∧ a.toNat ≤ 0x0F
  | .rst => True

/-- The big-endian value of a byte sequence. -/
def bigEndian (bytes : List Byte) : Nat := bytes.foldl (fun n b => n * 256 + b.toNat) 0

end Sys2Proof.Machine

/-! ## Encoding -/

/-- R70 to R73: decoding the word of a well-formed command gives the command back with its operand,
and every word that decodes is the word of exactly the command it decodes to. -/
def Obligations.EncodeDecodeRoundTrip : Prop :=
  (∀ i : Instr, i.wellFormed = true → decode (encode i) = .command i) ∧
  ∀ (c : Word) (i : Instr), decode c = .command i → encode i = c ∧ i.wellFormed = true

/-- R73: "The legal command words are therefore exactly" the 72 listed. -/
def Obligations.LegalCommandWords : Prop :=
  ∀ c : Word, (∃ i, decode c = .command i) ↔
    (∃ len : Nat, len ≤ 64 ∧ c = BitVec.ofNat 32 (256 * len + 1)) ∨
    c = 0x00000002 ∨ c = 0x00000102 ∨ c = 0x00000003 ∨ c = 0x00000004 ∨
    c = 0x00000005 ∨ c = 0x00000006 ∨ c = 0x000000FF

/-- R169 (3): which of the three reasons the decoder names, `RSV` before `OPC` before `ARG`. -/
def Obligations.IllegalWordReasons : Prop :=
  ∀ c : Word,
    (decode c = .illegal .reserved ↔ rsvField c ≠ 0) ∧
    (decode c = .illegal .opcode ↔
      rsvField c = 0 ∧ ¬ (opcField c ∈ [0x01, 0x02, 0x03, 0x04, 0x05, 0x06, 0xFF])) ∧
    (decode c = .illegal .operand ↔
      rsvField c = 0 ∧
        ((opcField c = 0x01 ∧ 64 < (argField c).toNat) ∨ (opcField c = 0x02 ∧ 1 < (argField c).toNat) ∨
          (opcField c ∈ [0x03, 0x04, 0x05, 0x06, 0xFF] ∧ argField c ≠ 0)))

/-- R71: the words of the opcode map, written out, decode to their commands; R74's zero word and
all-ones word do not. -/
def Obligations.DecodesWrittenWords : Prop :=
  decode 0x00004001 = .command (.b2w 64) ∧ decode 0x00000301 = .command (.b2w 3) ∧
  decode 0x00000002 = .command (.w2b 0) ∧ decode 0x00000102 = .command (.w2b 1) ∧
  decode 0x00000003 = .command .rotr ∧ decode 0x00000004 = .command .expand ∧
  decode 0x00000005 = .command .compress ∧ decode 0x00000006 = .command .init ∧
  decode 0x000000FF = .command .rst ∧
  decode 0x00000000 = .illegal .opcode ∧ decode 0xFFFFFFFF = .illegal .reserved ∧
  decode 0x00004101 = .illegal .operand

/-- R74: every illegal word written to `CMD` of an unlocked core raises `E_OPC(c)` and changes nothing
else. -/
def Obligations.IllegalCommandWordFaults : Prop :=
  ∀ (s : State) (c : Word) (rest : List HostEvent),
    s.fault = false → s.pending = .transaction (.wr 0x00 c) :: rest → illegalWord c →
    step s = .next { s with
      fault := true, err := .eOpc, einfo := c, pending := rest, responses := s.responses ++ [.wr true] }

/-! ## The seven commands -/

/-- R92. -/
def Obligations.B2wConvertsBytes : Prop :=
  ∀ (len : BitVec 8) (s : State), s.fault = false →
    (encode (.b2w len)).toNat = 256 * len.toNat + 1 ∧
    (64 < len.toNat →
      exec (.b2w len) s = .next { s with fault := true, err := .eOpc, einfo := encode (.b2w len) }) ∧
    (len.toNat ≤ 64 → len.toNat % 4 ≠ 0 →
      exec (.b2w len) s = .next { s with fault := true, err := .eLen, einfo := encode (.b2w len) }) ∧
    (len.toNat ≤ 64 → len.toNat % 4 = 0 →
      ∃ t, exec (.b2w len) s = .next t ∧
        t = { s with m := t.m, mlen := t.mlen } ∧ t.mlen.toNat = len.toNat / 4 ∧
        ∀ j : Fin 16,
          (j.val < len.toNat / 4 → t.m[j] =
            be32 s.bb[4 * j.val] s.bb[4 * j.val + 1] s.bb[4 * j.val + 2] s.bb[4 * j.val + 3]) ∧
          (len.toNat / 4 ≤ j.val → t.m[j] = s.m[j]))

/-- R94. -/
def Obligations.W2bSerialisesWords : Prop :=
  encode (.w2b 0) = 0x00000002 ∧ encode (.w2b 1) = 0x00000102 ∧
  ∀ s : State, s.fault = false →
    (∀ src : BitVec 8, 1 < src.toNat →
      exec (.w2b src) s = .next { s with fault := true, err := .eOpc, einfo := encode (.w2b src) }) ∧
    (s.hv = false →
      exec (.w2b 1) s = .next { s with fault := true, err := .eSeq, einfo := 0x00000102 }) ∧
    (s.hv = true →
      ∃ bb, exec (.w2b 1) s = .next { s with bb := bb } ∧
        ∀ i : Fin 64,
          (∀ (j : Fin 8) (k : Fin 4), i.val = 4 * j.val + k.val → bb[i] = byteK k.val s.h[j]) ∧
          (32 ≤ i.val → bb[i] = s.bb[i])) ∧
    (∃ bb, exec (.w2b 0) s = .next { s with bb := bb } ∧
      ∀ i : Fin 64,
        (∀ (j : Fin 16) (k : Fin 4), j.val < s.mlen.toNat → i.val = 4 * j.val + k.val →
          bb[i] = byteK k.val s.m[j]) ∧
        (4 * s.mlen.toNat ≤ i.val → bb[i] = s.bb[i]))

/-- R97, bit by bit as R96 gives the rotation: bit `i` of the result is bit `(i + r) mod 32` of `OPA`,
`r = AMT[4:0]`. -/
def Obligations.RotrRotatesRight : Prop :=
  encode .rotr = 0x00000003 ∧
  (∀ c : Word, opcField c = 0x03 → c ≠ 0x00000003 → ∃ why, decode c = .illegal why) ∧
  ∀ s : State, s.fault = false →
    ∃ r : Word, exec .rotr s = .next { s with res := r } ∧
      ∀ i : Nat, i < 32 → r.getLsbD i = s.opa.getLsbD ((i + s.amt.toNat % 32) % 32)

/-- R122, with the recurrence written out. -/
def Obligations.ExpandBuildsSchedule : Prop :=
  encode .expand = 0x00000004 ∧
  (∀ c : Word, opcField c = 0x04 → c ≠ 0x00000004 → ∃ why, decode c = .illegal why) ∧
  ∀ s : State, s.fault = false →
    (s.mlen = 0 → exec .expand s = .next { s with fault := true, err := .eSeq, einfo := 0x00000004 }) ∧
    (s.mlen ≠ 0 → s.mlen ≠ 16 →
      exec .expand s = .next { s with fault := true, err := .eLen, einfo := 0x00000004 }) ∧
    (s.mlen = 16 →
      ∃ w : Vector Word 64, exec .expand s = .next { s with w := w, wv := true, mlen := 0 } ∧
        (∀ i : Fin 16, w[i.val] = s.m[i]) ∧
        ∀ n : Fin 48, w[n.val + 16] =
          w[n.val] + ssig0 w[n.val + 1] + w[n.val + 9] + ssig1 w[n.val + 14])

/-- R131, with the words of R33. -/
def Obligations.InitCreatesHashState : Prop :=
  encode .init = 0x00000006 ∧
  (∀ c : Word, opcField c = 0x06 → c ≠ 0x00000006 → ∃ why, decode c = .illegal why) ∧
  ∀ s : State, s.fault = false →
    exec .init s = .next { s with
      h := #v[0x6a09e667, 0xbb67ae85, 0x3c6ef372, 0xa54ff53a, 0x510e527f, 0x9b05688c, 0x1f83d9ab, 0x5be0cd19]
      hv := true }

/-- R134, with the 64 rounds written out as the sequence of working variables `x 0, .., x 64`. -/
def Obligations.CompressFoldsSchedule : Prop :=
  encode .compress = 0x00000005 ∧
  (∀ c : Word, opcField c = 0x05 → c ≠ 0x00000005 → ∃ why, decode c = .illegal why) ∧
  ∀ s : State, s.fault = false →
    (s.hv = false ∨ s.wv = false →
      exec .compress s = .next { s with fault := true, err := .eSeq, einfo := 0x00000005 }) ∧
    (s.hv = true → s.wv = true →
      ∃ x : Nat → Vector Word 8, x 0 = s.h ∧
        (∀ i : Fin 64, ∃ t1 t2 : Word,
          t1 = (x i)[7] + bsig1 (x i)[4] + ch (x i)[4] (x i)[5] (x i)[6] + Rom.k[i] + s.w[i] ∧
          t2 = bsig0 (x i)[0] + maj (x i)[0] (x i)[1] (x i)[2] ∧
          x (i + 1) = #v[t1 + t2, (x i)[0], (x i)[1], (x i)[2], (x i)[3] + t1, (x i)[4], (x i)[5], (x i)[6]]) ∧
        exec .compress s = .next { s with
          v := x 64, h := Vector.ofFn (fun j : Fin 8 => s.h[j] + (x 64)[j]), wv := false })

/-- R150: from any state, locked or not, `RST` gives the reset state and returns `err = 0`, as the reset input does; it is
the only command word a locked core accepts, and it and the reset input alone clear `FAULT`; a word with `OPC = 0xFF`
that is not exactly `RST` raises `E_OPC` on an unlocked core. -/
def Obligations.RstClearsState : Prop :=
  encode .rst = 0x000000FF ∧
  (∀ s : State, exec .rst s = .next
    { h := Vector.replicate 8 0, v := Vector.replicate 8 0, m := Vector.replicate 16 0, mlen := 0,
      w := Vector.replicate 64 0, bb := Vector.replicate 64 0, opa := 0, amt := 0, res := 0,
      hv := false, wv := false, fault := false, err := .noFault, einfo := 0,
      pending := s.pending, responses := s.responses }) ∧
  (∀ (s : State) (rest : List HostEvent), s.pending = .transaction (.wr 0x00 0x000000FF) :: rest →
    ∃ t, step s = .next t ∧ t.sameInstance State.reset ∧ t.pending = rest ∧
      t.responses = s.responses ++ [.wr false]) ∧
  (∀ (s : State) (rest : List HostEvent), s.pending = .resetInput :: rest →
    ∃ t, step s = .next t ∧ t.sameInstance State.reset ∧ t.pending = rest ∧ t.responses = s.responses) ∧
  (∀ (s : State) (c : Word) (rest : List HostEvent),
    s.pending = .transaction (.wr 0x00 c) :: rest → c ≠ 0x000000FF →
    (s.fault = true → step s = .next { s with pending := rest, responses := s.responses ++ [.wr true] }) ∧
    (s.fault = false → opcField c = 0xFF → step s = .next { s with
      fault := true, err := .eOpc, einfo := c, pending := rest, responses := s.responses ++ [.wr true] })) ∧
  ∀ s t : State, s.fault = true → step s = .next t → t.fault = false →
    ∃ rest, s.pending = .resetInput :: rest ∨ s.pending = .transaction (.wr 0x00 0x000000FF) :: rest

/-- A locked core performs no command but `RST`. The lock check inside a command is the model's
inference from R54 and R169 (log entry 8). -/
def Obligations.LockedCommandsRejected : Prop :=
  ∀ (i : Instr) (s : State), s.fault = true → i ≠ .rst → exec i s = .next s

/-- R60: `B2W`, `W2B`, `ROTR`, `INIT`, `RST` give the same state when repeated at once; a second `EXPAND`
and a second `COMPRESS` fault. -/
def Obligations.RepeatedCommands : Prop :=
  (∀ (i : Instr) (s t : State), i ≠ .expand → i ≠ .compress → exec i s = .next t → exec i t = .next t) ∧
  (∀ s t : State, s.fault = false → s.mlen = 16 → exec .expand s = .next t →
    exec .expand t = .next { t with fault := true, err := .eSeq, einfo := 0x00000004 }) ∧
  ∀ s t : State, s.fault = false → s.hv = true → s.wv = true → exec .compress s = .next t →
    exec .compress t = .next { t with fault := true, err := .eSeq, einfo := 0x00000005 }

/-- R61: a command changes no register but those it writes and, by its flags or its fault, `STATUS`,
`ERR` and `EINFO`; every other address reads as before. -/
def Obligations.CommandsReachOnlyTheirRegisters : Prop :=
  ∀ (i : Instr) (s t : State) (a : Addr),
    exec i s = .next t → ¬ commandFootprint i a → t.regRead a = s.regRead a

/-- R131, R194: "`INIT` and the first block's `B2W 64` / `EXPAND` may come in either order". -/
def Obligations.InitAndExpandCommute : Prop :=
  ∀ s : State, s.fault = false → s.mlen = 16 →
    ∃ t u v, exec .init s = .next t ∧ exec .expand t = .next v ∧
      exec .expand s = .next u ∧ exec .init u = .next v ∧ v.fault = false ∧ v.hv = true ∧ v.wv = true

/-! ## The host's transactions -/

/-- A step performs the host's next event; a `WR CMD` of an unlocked core whose word decodes runs the
decoded command, and the response says whether it raised a fault (the core is then locked). -/
def Obligations.StepRunsDecodedCommand : Prop :=
  ∀ (s : State) (c : Word) (i : Instr) (rest : List HostEvent),
    s.fault = false → s.pending = .transaction (.wr 0x00 c) :: rest → decode c = .command i →
    ∃ t, exec i { s with pending := rest } = .next t ∧
      step s = .next { t with responses := t.responses ++ [.wr t.fault] }

/-- No event stops the machine: every step answers a next state, from every state. -/
def Obligations.StepNeverStops : Prop :=
  ∀ s : State, ∃ t, step s = .next t

/-- R151. -/
def Obligations.HostWriteOperation : Prop :=
  ∀ (s : State) (a : Addr) (d : Word) (rest : List HostEvent),
    s.pending = .transaction (.wr a d) :: rest →
    (s.fault = true → a = 0x00 → d = 0x000000FF →
      step s = .next { State.reset with pending := rest, responses := s.responses ++ [.wr false] }) ∧
    (s.fault = true → ¬ (a = 0x00 ∧ d = 0x000000FF) →
      step s = .next { s with pending := rest, responses := s.responses ++ [.wr true] }) ∧
    (s.fault = false → a = 0x00 → ∀ i, decode d = .command i →
      ∃ t, exec i { s with pending := rest } = .next t ∧
        step s = .next { t with responses := s.responses ++ [.wr t.fault] }) ∧
    (s.fault = false → a = 0x00 → ∀ why, decode d = .illegal why →
      step s = .next { s with
        fault := true, err := .eOpc, einfo := d, pending := rest, responses := s.responses ++ [.wr true] }) ∧
    (s.fault = false → a = 0x04 →
      step s = .next { s with opa := d, pending := rest, responses := s.responses ++ [.wr false] }) ∧
    (s.fault = false → a = 0x05 →
      step s = .next { s with amt := d, pending := rest, responses := s.responses ++ [.wr false] }) ∧
    (s.fault = false → ∀ i : Fin 64, a.toNat = 0xC0 + i.val →
      step s = .next { s with
        bb := s.bb.set i.val (BitVec.ofNat 8 (d.toNat % 256))
        pending := rest, responses := s.responses ++ [.wr false] }) ∧
    (s.fault = false → a ≠ 0x00 → a ≠ 0x04 → a ≠ 0x05 → a.toNat < 0xC0 →
      step s = .next { s with
        fault := true, err := .eAcc, einfo := BitVec.ofNat 32 (0x100 + a.toNat)
        pending := rest, responses := s.responses ++ [.wr true] })

/-- R152. -/
def Obligations.HostReadOperation : Prop :=
  ∀ s : State,
    s.readsAs 0x01 (BitVec.ofNat 32
      (256 * s.mlen.toNat + 4 * s.fault.toNat + 2 * s.wv.toNat + s.hv.toNat)) ∧
    s.readsAs 0x02 (s.err.code.setWidth 32) ∧ s.readsAs 0x03 s.einfo ∧
    s.readsAs 0x04 s.opa ∧ s.readsAs 0x05 s.amt ∧ s.readsAs 0x06 s.res ∧
    (∀ i : Fin 8, s.readsAs (BitVec.ofNat 8 (0x08 + i.val)) s.h[i]) ∧
    (∀ i : Fin 8, s.readsAs (BitVec.ofNat 8 (0x10 + i.val)) s.v[i]) ∧
    (∀ i : Fin 8, s.readsAs (BitVec.ofNat 8 (0x18 + i.val)) Rom.h0[i]) ∧
    (∀ i : Fin 16, s.readsAs (BitVec.ofNat 8 (0x20 + i.val)) s.m[i]) ∧
    (∀ i : Fin 64, s.readsAs (BitVec.ofNat 8 (0x40 + i.val)) s.w[i]) ∧
    (∀ i : Fin 64, s.readsAs (BitVec.ofNat 8 (0x80 + i.val)) Rom.k[i]) ∧
    (∀ i : Fin 64, s.readsAs (BitVec.ofNat 8 (0xC0 + i.val)) (s.bb[i].setWidth 32)) ∧
    ∀ (a : Addr) (rest : List HostEvent),
      a = 0x00 ∨ a = 0x07 ∨ (0x30 ≤ a.toNat ∧ a.toNat ≤ 0x3F) →
      s.pending = .transaction (.rd a) :: rest →
      (s.fault = true → step s = .next { s with pending := rest, responses := s.responses ++ [.rd true 0] }) ∧
      (s.fault = false → step s = .next { s with
        fault := true, err := .eAcc, einfo := BitVec.ofNat 32 a.toNat
        pending := rest, responses := s.responses ++ [.rd true 0] })

/-- R33, R34, R35: from any state, locked or not, the ROM reads these tables: no operation, fault or reset
changes them. Row and column are those of R34's printed table. -/
def Obligations.RomHoldsItsTables : Prop :=
  ∀ s : State,
    (∀ i : Fin 8, s.readsAs (BitVec.ofNat 8 (0x18 + i.val))
      (#v[0x6a09e667, 0xbb67ae85, 0x3c6ef372, 0xa54ff53a, 0x510e527f, 0x9b05688c, 0x1f83d9ab, 0x5be0cd19] :
        Vector Word 8)[i]) ∧
    ∀ (row : Fin 16) (column : Fin 4), s.readsAs (BitVec.ofNat 8 (0x80 + 4 * row.val + column.val))
      (#v[#v[0x428a2f98, 0x71374491, 0xb5c0fbcf, 0xe9b5dba5],
          #v[0x3956c25b, 0x59f111f1, 0x923f82a4, 0xab1c5ed5],
          #v[0xd807aa98, 0x12835b01, 0x243185be, 0x550c7dc3],
          #v[0x72be5d74, 0x80deb1fe, 0x9bdc06a7, 0xc19bf174],
          #v[0xe49b69c1, 0xefbe4786, 0x0fc19dc6, 0x240ca1cc],
          #v[0x2de92c6f, 0x4a7484aa, 0x5cb0a9dc, 0x76f988da],
          #v[0x983e5152, 0xa831c66d, 0xb00327c8, 0xbf597fc7],
          #v[0xc6e00bf3, 0xd5a79147, 0x06ca6351, 0x14292967],
          #v[0x27b70a85, 0x2e1b2138, 0x4d2c6dfc, 0x53380d13],
          #v[0x650a7354, 0x766a0abb, 0x81c2c92e, 0x92722c85],
          #v[0xa2bfe8a1, 0xa81a664b, 0xc24b8b70, 0xc76c51a3],
          #v[0xd192e819, 0xd6990624, 0xf40e3585, 0x106aa070],
          #v[0x19a4c116, 0x1e376c08, 0x2748774c, 0x34b0bcb5],
          #v[0x391c0cb3, 0x4ed8aa4a, 0x5b9cca4f, 0x682e6ff3],
          #v[0x748f82ee, 0x78a5636f, 0x84c87814, 0x8cc70208],
          #v[0x90befffa, 0xa4506ceb, 0xbef9a3f7, 0xc67178f2]] :
        Vector (Vector Word 4) 16)[row][column]

/-- R33, R34: what the ROM's words are: `H0[i]` is the first 32 bits of the fractional part of the square root of the
`i`-th prime, `K[i]` of the cube root of the `i`-th prime, counted from 0. `n` is the root's integer part, so
`n * 2^32 + word` is the root times `2^32`, cut to an integer. -/
def Obligations.RomWordsAreRootFractions : Prop :=
  (∀ i : Fin 8, ∃ n : Nat,
    (n * 2 ^ 32 + Rom.h0[i].toNat) ^ 2 ≤ Nat.nth Nat.Prime i.val * 2 ^ 64 ∧
    Nat.nth Nat.Prime i.val * 2 ^ 64 < (n * 2 ^ 32 + Rom.h0[i].toNat + 1) ^ 2) ∧
  ∀ i : Fin 64, ∃ n : Nat,
    (n * 2 ^ 32 + Rom.k[i].toNat) ^ 3 ≤ Nat.nth Nat.Prime i.val * 2 ^ 96 ∧
    Nat.nth Nat.Prime i.val * 2 ^ 96 < (n * 2 ^ 32 + Rom.k[i].toNat + 1) ^ 3

/-- R51: the 17 reserved addresses name no register, and every register has exactly one address. -/
def Obligations.AddressMapIsFixed : Prop :=
  (∀ a : Addr, regAt a = none ↔ a = 0x07 ∨ (0x30 ≤ a.toNat ∧ a.toNat ≤ 0x3F)) ∧
  (∀ r : Reg, regAt r.addr = some r) ∧
  ∀ (a : Addr) (r : Reg), regAt a = some r → r.addr = a

/-- R56: a write of `BB[i]` stores `data[7:0]` whatever `data[31:8]` are; a read returns it zero-extended;
the other bytes are unchanged. -/
def Obligations.ByteBufferAccess : Prop :=
  ∀ (s : State) (i : Fin 64) (d : Word) (rest : List HostEvent), s.fault = false →
    s.pending = .transaction (.wr (BitVec.ofNat 8 (0xC0 + i.val)) d) ::
      .transaction (.rd (BitVec.ofNat 8 (0xC0 + i.val))) :: rest →
    ∃ t u, step s = .next t ∧ step t = .next u ∧
      (∀ j : Fin 64, j ≠ i → t.bb[j] = s.bb[j]) ∧
      t = { s with bb := t.bb, pending := t.pending, responses := s.responses ++ [.wr false] } ∧
      u = { t with pending := rest,
                   responses := s.responses ++ [.wr false, .rd false (BitVec.ofNat 32 (d.toNat % 256))] }

/-- R53, R151: a legal write of `OPA`, `AMT` or a byte of `BB` leaves every other address reading as
before. -/
def Obligations.RegisterWriteFrame : Prop :=
  ∀ (s : State) (a b : Addr) (d : Word) (rest : List HostEvent), s.fault = false →
    s.pending = .transaction (.wr a d) :: rest → a = 0x04 ∨ a = 0x05 ∨ 0xC0 ≤ a.toNat → b ≠ a →
    ∃ t, step s = .next t ∧ t.regRead b = s.regRead b ∧ t.fault = false

/-- R31: the fields of `STATUS`. -/
def Obligations.StatusLayout : Prop :=
  ∀ s : State, s.regRead 0x01 = some s.statusWord ∧
    s.statusWord.extractLsb' 0 1 = BitVec.ofBool s.hv ∧
    s.statusWord.extractLsb' 1 1 = BitVec.ofBool s.wv ∧
    s.statusWord.extractLsb' 2 1 = BitVec.ofBool s.fault ∧
    s.statusWord.extractLsb' 3 5 = 0 ∧
    s.statusWord.extractLsb' 8 5 = s.mlen ∧
    s.statusWord.extractLsb' 13 19 = 0 ∧
    State.reset.statusWord = 0

/-- R20, column "written by": each register changes only by the operations listed for it. -/
def Obligations.StateWrittenOnlyByItsOperations : Prop :=
  ∀ s t : State, step s = .next t →
    (t.h ≠ s.h → s.launches .init ∨ s.launches .compress ∨ s.resets) ∧
    (t.v ≠ s.v → s.launches .compress ∨ s.resets) ∧
    (t.m ≠ s.m → (∃ len, s.launches (.b2w len)) ∨ s.resets) ∧
    (t.mlen ≠ s.mlen → (∃ len, s.launches (.b2w len)) ∨ s.launches .expand ∨ s.resets) ∧
    (t.w ≠ s.w → s.launches .expand ∨ s.resets) ∧
    (t.bb ≠ s.bb → (∃ a, 0xC0 ≤ a.toNat ∧ s.writes a) ∨ (∃ src, s.launches (.w2b src)) ∨ s.resets) ∧
    (t.opa ≠ s.opa → s.writes 0x04 ∨ s.resets) ∧
    (t.amt ≠ s.amt → s.writes 0x05 ∨ s.resets) ∧
    (t.res ≠ s.res → s.launches .rotr ∨ s.resets) ∧
    (t.hv ≠ s.hv → s.launches .init ∨ s.resets) ∧
    (t.wv ≠ s.wv → s.launches .expand ∨ s.launches .compress ∨ s.resets) ∧
    ((t.fault, t.err, t.einfo) ≠ (s.fault, s.err, s.einfo) →
      (s.fault = false ∧ t.fault = true) ∨ s.resets)

/-- R28: what sets and what clears each flag. -/
def Obligations.FlagsSetAndClearedAsListed : Prop :=
  ∀ s t : State, step s = .next t →
    (s.hv = false → t.hv = true → s.launches .init) ∧
    (s.hv = true → t.hv = false → s.resets) ∧
    (s.wv = false → t.wv = true → s.launches .expand) ∧
    (s.wv = true → t.wv = false → s.launches .compress ∨ s.resets) ∧
    (s.fault = true → t.fault = false → s.resets) ∧
    (∀ len, s.fault = false → s.launches (.b2w len) → len.toNat % 4 = 0 → t.mlen.toNat = len.toNat / 4) ∧
    (s.fault = false → s.launches .expand → t.fault = false → t.mlen = 0)

/-! ## Faults and reset -/

/-- R166. -/
def Obligations.FaultEntryLatchesCause : Prop :=
  ∀ (s : State) (e : ErrCode) (info : Word), s.fault = false →
    s.raise e info = { s with fault := true, err := e, einfo := info }

/-- R165: an event on an unlocked core raises a fault exactly when a row of the table applies, and
latches that row's code and information word. -/
def Obligations.CompleteCauseTable : Prop :=
  ∀ (s t : State) (e : HostEvent) (rest : List HostEvent),
    s.flagsSound → s.fault = false → s.pending = e :: rest → step s = .next t →
    (causeTable s e = none → t.fault = false ∧ t.err = .noFault) ∧
    ∀ code info, causeTable s e = some (code, info) → t.fault = true ∧ t.err = code ∧ t.einfo = info

/-- R167: a faulting operation changes nothing but the fault registers; it consumes its event and
answers `err = 1`. -/
def Obligations.FaultsArePrecise : Prop :=
  ∀ s t : State, s.fault = false → step s = .next t → t.fault = true →
    ∃ e rest r, s.pending = e :: rest ∧ (r = .wr true ∨ r = .rd true 0) ∧
      t = { s with fault := true, err := t.err, einfo := t.einfo, pending := rest,
                   responses := s.responses ++ [r] }

/-- R168: while locked no fault is entered; a step that leaves the core locked leaves every register,
`ERR` and `EINFO` among them, as it was, and a rejected transaction answers `err = 1`. -/
def Obligations.FirstFaultWins : Prop :=
  ∀ s t : State, s.fault = true → step s = .next t → t.fault = true →
    t = { s with pending := t.pending, responses := t.responses } ∧
    (∀ a d rest, s.pending = .transaction (.wr a d) :: rest → t.responses = s.responses ++ [.wr true]) ∧
    ∀ a rest, s.pending = .transaction (.rd a) :: rest → s.regRead a = none →
      t.responses = s.responses ++ [.rd true 0]

/-- R170: the only return from the locked state is reset, it restores nothing, and it is always
accepted (R171); while locked every readable register can be read. -/
def Obligations.OnlyResetUnlocks : Prop :=
  (∀ s t : State, s.fault = true → step s = .next t → t.fault = false →
    (∃ rest, s.pending = .resetInput :: rest ∨ s.pending = .transaction (.wr 0x00 0x000000FF) :: rest) ∧
      t.sameInstance State.reset) ∧
  (∀ (s : State) (rest : List HostEvent),
    s.pending = .resetInput :: rest ∨ s.pending = .transaction (.wr 0x00 0x000000FF) :: rest →
    ∃ t, step s = .next t ∧ t.sameInstance State.reset) ∧
  ∀ (s : State) (a : Addr) (d : Word), s.fault = true → s.regRead a = some d → s.readsAs a d

/-- R190: the reset input and `RST` have identical effect on the instance, from any state. -/
def Obligations.ResetInputEqualsRst : Prop :=
  ∀ (s t u : State), step { s with pending := [.resetInput] } = .next t →
    step { s with pending := [.transaction (.wr 0x00 0x000000FF)] } = .next u →
    t.sameInstance u ∧ t.sameInstance State.reset ∧ t.responses = s.responses

/-- R38, R191: every writable element is zero after reset, `STATUS` reads zero, and the core is not locked. -/
def Obligations.ResetState : Prop :=
  (∀ a : Addr, 0x01 ≤ a.toNat → a.toNat ≤ 0x17 → a ≠ 0x07 → State.reset.regRead a = some 0) ∧
  (∀ a : Addr, 0x20 ≤ a.toNat → a.toNat ≤ 0x2F → State.reset.regRead a = some 0) ∧
  (∀ a : Addr, 0x40 ≤ a.toNat → a.toNat ≤ 0x7F → State.reset.regRead a = some 0) ∧
  (∀ a : Addr, 0xC0 ≤ a.toNat → State.reset.regRead a = some 0) ∧
  State.reset.fault = false ∧ State.reset.hv = false ∧ State.reset.wv = false ∧ State.reset.mlen = 0

/-! ## Invariants -/

/-- The state after reset meets every invariant stated below. -/
def Obligations.ResetMeetsInvariants : Prop :=
  State.reset.flagsSound ∧ State.reset.einfoSound ∧ State.reset.scheduleSound ∧ State.reset.hashSound

/-- R20, R28, R32: every step keeps `MLEN` within 0 to 16, `FAULT` in step with `ERR`, and `EINFO = 0`
when `ERR = 0`. -/
def Obligations.StepKeepsFlagsSound : Prop :=
  ∀ s t : State, s.flagsSound → step s = .next t → t.flagsSound

/-- R161 to R164: every step keeps `EINFO` an information word of the kind its fault code records. -/
def Obligations.StepKeepsEinfoSound : Prop :=
  ∀ s t : State, s.flagsSound → s.einfoSound → step s = .next t → t.einfoSound

/-- R26, R37: every step keeps `W` the Schedule of a Block while `WV = 1`. -/
def Obligations.StepKeepsScheduleSound : Prop :=
  ∀ s t : State, s.scheduleSound → step s = .next t → t.scheduleSound

/-- R7, R22: every step keeps `H` a HashState that some sequence of blocks leads to from `H0` while
`HV = 1`: no hash can be resumed from any other state. -/
def Obligations.StepKeepsHashSound : Prop :=
  ∀ s t : State, s.scheduleSound → s.hashSound → step s = .next t → t.hashSound

/-- R30: no command and no write consumes stale content: two states that agree on everything valid
still do after the same event that is not a host read. -/
def Obligations.StaleContentNeverConsumed : Prop :=
  ∀ s t s' t' : State, s.sameValid t → (∀ a rest, s.pending ≠ .transaction (.rd a) :: rest) →
    step s = .next s' → step t = .next t' → s'.sameValid t'

/-! ## The pure functions -/

/-- R98: `AMT` is read as a two's-complement integer; reduced to its non-negative remainder mod 32 it
is the low five bits, for both signs, and `ROTR` computes the source's rotation by it. -/
def Obligations.RotateAmountIsSigned : Prop :=
  (∀ amt : Word, amt.toInt = (amt.toNat : Int) - 2 ^ 32 * (amt.getLsbD 31).toNat ∧
    -2 ^ 31 ≤ amt.toInt ∧ amt.toInt ≤ 2 ^ 31 - 1 ∧
    (amt.toInt % 32).toNat = (amt.extractLsb' 0 5).toNat) ∧
  ∀ s : State, s.fault = false →
    exec .rotr s = .next { s with res := circularRotateRight s.opa s.amt.toInt }

/-- R99: the laws of the rotate, for any integer amount. -/
def Obligations.RotateLaws : Prop :=
  (∀ (x : Word) (n : Int), circularRotateRight (circularRotateRight x n) (-n) = x) ∧
  (∀ (x : Word) (n : Int), 0 ≤ n → n < 32 →
    circularRotateRight (circularRotateRight x n) (32 - n) = x) ∧
  ∀ (x : Word) (n m : Int),
    circularRotateRight (circularRotateRight x n) m = circularRotateRight x (n + m)

/-- R95: the round-trip laws of the codec, of the functions and of the commands. -/
def Obligations.CodecRoundTrips : Prop :=
  (∀ ws : List Word, bytesToWords (wordsToBytes ws) = some ws) ∧
  (∀ bs : List Byte, bs.length % 4 = 0 → ∃ ws, bytesToWords bs = some ws ∧ wordsToBytes ws = bs) ∧
  (∀ s : State, s.fault = false → s.mlen.toNat ≤ 16 →
    ∃ t u, exec (.w2b 0) s = .next t ∧ exec (.b2w (BitVec.ofNat 8 (4 * s.mlen.toNat))) t = .next u ∧
      u.mlen = s.mlen ∧ ∀ j : Fin 16, j.val < s.mlen.toNat → u.m[j] = s.m[j]) ∧
  ∀ (s : State) (len : BitVec 8), s.fault = false → len.toNat ≤ 64 → len.toNat % 4 = 0 →
    ∃ t u, exec (.b2w len) s = .next t ∧ exec (.w2b 0) t = .next u ∧ u.bb = s.bb

/-- R92 against R91: the words `B2W len` leaves in `M` are `bytesToWords` of the first `len` bytes of
`BB`, and `B2W` faults exactly where the function has no result. -/
def Obligations.B2wRefinesBytesToWords : Prop :=
  ∀ (s t : State) (len : BitVec 8), s.fault = false → len.toNat ≤ 64 → exec (.b2w len) s = .next t →
    (bytesToWords (s.bb.toList.take len.toNat) = none ↔ t.fault = true) ∧
    (t.fault = false →
      bytesToWords (s.bb.toList.take len.toNat) = some (t.m.toList.take t.mlen.toNat))

/-- R94 against R93: the bytes `W2B` leaves at the start of `BB` are `wordsToBytes` of its source. -/
def Obligations.W2bRefinesWordsToBytes : Prop :=
  ∀ s t u : State, s.fault = false → s.mlen.toNat ≤ 16 → s.hv = true →
    exec (.w2b 0) s = .next t → exec (.w2b 1) s = .next u →
    t.bb.toList.take (4 * s.mlen.toNat) = wordsToBytes (s.m.toList.take s.mlen.toNat) ∧
    u.bb.toList.take 32 = wordsToBytes s.h.toList

/-- R135: the equivalent forms of `ch` and `maj`, and what each result bit is. -/
def Obligations.ChoiceAndMajorityForms : Prop :=
  ∀ x y z : Word,
    ch x y z = ((x &&& y) ^^^ (~~~x &&& z)) ∧
    maj x y z = (((x ||| y) &&& z) ||| (x &&& y)) ∧
    maj x y z = ((x &&& y) ^^^ (x &&& z) ^^^ (y &&& z)) ∧
    ∀ i : Fin 32,
      (ch x y z).getLsbD i = (if x.getLsbD i then y.getLsbD i else z.getLsbD i) ∧
      (maj x y z).getLsbD i =
        decide (2 ≤ (x.getLsbD i).toNat + (y.getLsbD i).toNat + (z.getLsbD i).toNat)

/-- R124: `ssig0` and `ssig1` are linear over xor, and their values on 0 and all-ones. -/
def Obligations.ScheduleSigmasLinear : Prop :=
  (∀ x y : Word, ssig0 (x ^^^ y) = ssig0 x ^^^ ssig0 y ∧ ssig1 (x ^^^ y) = ssig1 x ^^^ ssig1 y) ∧
  ssig0 0 = 0 ∧ ssig1 0 = 0 ∧
  ssig0 0xFFFFFFFF = 0x1FFFFFFF ∧ ssig1 0xFFFFFFFF = 0x003FFFFF

/-! ## The host's reference procedures -/

/-- R111, R112, R115: the padded form, piece by piece, and its length. -/
def Obligations.PadShape : Prop :=
  (∀ msg : List Byte, pad msg = none ↔ 2 ^ 61 ≤ msg.length) ∧
  ∀ msg p : List Byte, pad msg = some p →
    (∃ (z : Nat) (suffix : List Byte),
      p = msg ++ [0x80] ++ List.replicate z 0 ++ suffix ∧
      (msg.length + 1 + z) % 64 = 56 ∧ (∀ y < z, (msg.length + 1 + y) % 64 ≠ 56) ∧
      suffix.length = 8 ∧ bigEndian suffix = 8 * msg.length) ∧
    p.length = 64 * ((msg.length + 8) / 64 + 1) ∧ msg.length < p.length

/-- R113. -/
def Obligations.ParseBlocksWordwise : Prop :=
  (∀ p : List Byte, parseBlocks p = none ↔ p.length % 64 ≠ 0) ∧
  ∀ (p : List Byte) (bs : List Block), parseBlocks p = some bs →
    64 * bs.length = p.length ∧
    ∀ (t : Nat) (ht : t < bs.length) (j : Fin 16) (b0 b1 b2 b3 : Byte),
      p[64 * t + 4 * j.val]? = some b0 → p[64 * t + 4 * j.val + 1]? = some b1 →
      p[64 * t + 4 * j.val + 2]? = some b2 → p[64 * t + 4 * j.val + 3]? = some b3 →
      bs[t][j] = be32 b0 b1 b2 b3

/-- R114: 64 writes of a block's bytes in any order, then `B2W 64`, make `M` that block. -/
def Obligations.BlockLoadsInAnyOrder : Prop :=
  ∀ (s : State) (bytes : Vector Byte 64) (order : List (Fin 64)) (rest : List HostEvent),
    s.fault = false → order.Perm (List.finRange 64) →
    s.pending = (order.map fun i => .transaction (.wr (BitVec.ofNat 8 (0xC0 + i.val)) (bytes[i].setWidth 32)))
      ++ .transaction (.wr 0x00 0x00004001) :: rest →
    ∃ t, Sys2Proof.core.run 65 s = .next t ∧ t.bb = bytes ∧ t.mlen = 16 ∧ t.pending = rest ∧
      (∀ j : Fin 16, t.m[j] = be32 bytes[4 * j.val] bytes[4 * j.val + 1] bytes[4 * j.val + 2] bytes[4 * j.val + 3]) ∧
      t = { s with bb := t.bb, m := t.m, mlen := t.mlen, pending := t.pending,
                   responses := s.responses ++ List.replicate 65 (.wr false) }

/-- R78: `ROTRI x, amt` reads back the source's rotation, for every amount in its range. -/
def Obligations.RotriReturnsRotation : Prop :=
  ∀ (s : State) (x : Word) (amt : Int) (rest : List HostEvent),
    s.fault = false → -2 ^ 31 ≤ amt → amt ≤ 2 ^ 31 - 1 →
    s.pending = (rotrI x amt).map HostEvent.transaction ++ rest →
    ∃ t, Sys2Proof.core.run 4 s = .next t ∧ t.pending = rest ∧ t.fault = false ∧
      t.responses = s.responses ++
        [.wr false, .wr false, .wr false, .rd false (circularRotateRight x amt)]

/-- R140, R115: `digest` has a result exactly below the bound, and it is 32 bytes. -/
def Obligations.DigestIsDefined : Prop :=
  ∀ msg : List Byte,
    (digest msg = none ↔ 2 ^ 61 ≤ msg.length) ∧ ∀ d, digest msg = some d → d.length = 32

/-- R141: from any unlocked state the host program raises no fault and the 32 bytes read are the digest;
begun with `RST` it does so from any state. -/
def Obligations.HostProgramComputesDigest : Prop :=
  ∀ (s : State) (msg p d : List Byte) (rest : List HostEvent),
    pad msg = some p → digest msg = some d →
    (s.fault = false → s.pending = (digestTransactions p).map HostEvent.transaction ++ rest →
      ∃ t, Sys2Proof.core.run (digestTransactions p).length s = .next t ∧
        t.fault = false ∧ t.pending = rest ∧
        t.responses = s.responses ++ List.replicate ((digestTransactions p).length - 32) (.wr false)
          ++ d.map fun b => .rd false (b.setWidth 32)) ∧
    (s.pending = (asm .rst :: digestTransactions p).map HostEvent.transaction ++ rest →
      ∃ t, Sys2Proof.core.run ((digestTransactions p).length + 1) s = .next t ∧
        t.fault = false ∧ t.pending = rest ∧
        t.responses = s.responses ++ List.replicate ((digestTransactions p).length - 31) (.wr false)
          ++ d.map fun b => .rd false (b.setWidth 32))

/-- R142: two characters a byte, from the digits `0123456789abcdef`, and no two byte sequences have the
same text. -/
def Obligations.HexRenderingLossless : Prop :=
  (∀ bs : List Byte, (hexRender bs).length = 2 * bs.length) ∧
  (∀ bs : List Byte, ∀ x ∈ hexRender bs, x ∈ "0123456789abcdef".toList) ∧
  (∀ bs cs : List Byte, hexRender bs = hexRender cs → bs = cs) ∧
  hexRender [0xe3, 0xb0] = ['e', '3', 'b', '0']

/-! ## Several instances -/

/-- R65, R183: in any interleaving each instance ends as it would alone. -/
def Obligations.InstancesAreIndependent : Prop :=
  ∀ (n : Nat) (x : Instances n) (order : List (Fin n)),
    ∃ y, x.interleave order = .next y ∧
      ∀ k : Fin n, Sys2Proof.core.run (order.count k) x[k] = .next y[k]
end

