-- ==== Sys2Proof/Laws/PerInstr.lean ====
section
/-! SUPPORT. Statements made per instruction (LAWS.json): the fields of every command word (spec 30_encoding.md R70, R72). -/

namespace Sys2Proof.Laws.EncodedFields

/-- The command word of `i` has the opcode and operand of `i` in their places and `RSV = 0`. -/
def Statement (i : Instr) : Prop :=
  opcField (encode i) = i.opcode ∧ argField (encode i) = i.operand ∧ rsvField (encode i) = 0

/-- The fields of a word put together from `RSV = 0`, an operand and an opcode. -/
theorem fields_of_append (arg opc : BitVec 8) :
    opcField ((0#16 ++ arg : BitVec 24) ++ opc) = opc ∧ argField ((0#16 ++ arg : BitVec 24) ++ opc) = arg ∧
      rsvField ((0#16 ++ arg : BitVec 24) ++ opc) = 0 := by
  refine ⟨?_, ?_, ?_⟩ <;> apply BitVec.eq_of_getLsbD_eq <;> intro j hj <;>
    simp only [opcField, argField, rsvField, BitVec.getLsbD_append, BitVec.getLsbD_extractLsb'] <;>
    simp [hj, show ¬ (8 + j < 8) by omega, show ¬ (16 + j < 8) by omega, show ¬ (16 + j - 8 < 8) by omega]

theorem b2w (len : BitVec 8) : Statement (.b2w len) := fields_of_append _ _
theorem w2b (src : BitVec 8) : Statement (.w2b src) := fields_of_append _ _
theorem rotr : Statement .rotr := fields_of_append _ _
theorem expand : Statement .expand := fields_of_append _ _
theorem compress : Statement .compress := fields_of_append _ _
theorem init : Statement .init := fields_of_append _ _
theorem rst : Statement .rst := fields_of_append _ _

end Sys2Proof.Laws.EncodedFields
end

