-- ==== Sys2Proof/Laws/Decode.lean ====
section
/-! SUPPORT. A command word and its three fields. -/

namespace Sys2Proof

/-- A word is its three fields put together (R70). -/
theorem word_of_fields (c : Word) : ((rsvField c ++ argField c : BitVec 24) ++ opcField c : BitVec 32) = c := by
  apply BitVec.eq_of_getLsbD_eq
  intro i hi
  simp only [opcField, argField, rsvField, BitVec.getLsbD_append, BitVec.getLsbD_extractLsb']
  split
  · simp [*]
  · split
    · have : 8 + (i - 8) = i := by omega
      simp_all
    · have : 16 + (i - 8 - 8) = i := by omega
      have : i - 8 - 8 < 16 := by omega
      simp_all

theorem opcField_toNat (c : Word) : (opcField c).toNat = c.toNat % 256 := by
  simp [opcField, BitVec.extractLsb'_toNat]

theorem argField_toNat (c : Word) : (argField c).toNat = c.toNat / 256 % 256 := by
  simp [argField, BitVec.extractLsb'_toNat, Nat.shiftRight_eq_div_pow]

theorem rsvField_toNat (c : Word) : (rsvField c).toNat = c.toNat / 65536 := by
  have := c.isLt
  simp [rsvField, BitVec.extractLsb'_toNat, Nat.shiftRight_eq_div_pow]
  omega

/-- The fields of an encoded command. -/
theorem encode_fields (i : Instr) :
    opcField (encode i) = i.opcode ∧ argField (encode i) = i.operand ∧ rsvField (encode i) = 0 :=
  Laws.EncodedFields.fields_of_append _ _

/-- The number a command word is. -/
theorem encode_toNat (i : Instr) : (encode i).toNat = 256 * i.operand.toNat + i.opcode.toNat := by
  obtain ⟨h1, h2, h3⟩ := encode_fields i
  have e1 := opcField_toNat (encode i)
  have e2 := argField_toNat (encode i)
  have e3 := rsvField_toNat (encode i)
  rw [h1] at e1
  rw [h2] at e2
  rw [h3] at e3
  have : (0 : BitVec 16).toNat = 0 := rfl
  omega

end Sys2Proof
end

