-- ==== Sys2Proof/Laws/State.lean ====
section
/-! SUPPORT. One lemma per field per named update of Machine/Ops.lean, so that no proof unfolds a record update. -/

namespace Sys2Proof.Machine

variable (s : State)

@[simp] theorem State.latch_h (e : ErrCode) (info : Word) : (s.latch e info).h = s.h := rfl
@[simp] theorem State.latch_v (e : ErrCode) (info : Word) : (s.latch e info).v = s.v := rfl
@[simp] theorem State.latch_m (e : ErrCode) (info : Word) : (s.latch e info).m = s.m := rfl
@[simp] theorem State.latch_mlen (e : ErrCode) (info : Word) : (s.latch e info).mlen = s.mlen := rfl
@[simp] theorem State.latch_w (e : ErrCode) (info : Word) : (s.latch e info).w = s.w := rfl
@[simp] theorem State.latch_bb (e : ErrCode) (info : Word) : (s.latch e info).bb = s.bb := rfl
@[simp] theorem State.latch_opa (e : ErrCode) (info : Word) : (s.latch e info).opa = s.opa := rfl
@[simp] theorem State.latch_amt (e : ErrCode) (info : Word) : (s.latch e info).amt = s.amt := rfl
@[simp] theorem State.latch_res (e : ErrCode) (info : Word) : (s.latch e info).res = s.res := rfl
@[simp] theorem State.latch_hv (e : ErrCode) (info : Word) : (s.latch e info).hv = s.hv := rfl
@[simp] theorem State.latch_wv (e : ErrCode) (info : Word) : (s.latch e info).wv = s.wv := rfl
@[simp] theorem State.latch_fault (e : ErrCode) (info : Word) : (s.latch e info).fault = true := rfl
@[simp] theorem State.latch_err (e : ErrCode) (info : Word) : (s.latch e info).err = e := rfl
@[simp] theorem State.latch_einfo (e : ErrCode) (info : Word) : (s.latch e info).einfo = info := rfl
@[simp] theorem State.latch_pending (e : ErrCode) (info : Word) : (s.latch e info).pending = s.pending := rfl
@[simp] theorem State.latch_responses (e : ErrCode) (info : Word) : (s.latch e info).responses = s.responses := rfl

@[simp] theorem State.respond_h (r : Response) : (s.respond r).h = s.h := rfl
@[simp] theorem State.respond_v (r : Response) : (s.respond r).v = s.v := rfl
@[simp] theorem State.respond_m (r : Response) : (s.respond r).m = s.m := rfl
@[simp] theorem State.respond_mlen (r : Response) : (s.respond r).mlen = s.mlen := rfl
@[simp] theorem State.respond_w (r : Response) : (s.respond r).w = s.w := rfl
@[simp] theorem State.respond_bb (r : Response) : (s.respond r).bb = s.bb := rfl
@[simp] theorem State.respond_opa (r : Response) : (s.respond r).opa = s.opa := rfl
@[simp] theorem State.respond_amt (r : Response) : (s.respond r).amt = s.amt := rfl
@[simp] theorem State.respond_res (r : Response) : (s.respond r).res = s.res := rfl
@[simp] theorem State.respond_hv (r : Response) : (s.respond r).hv = s.hv := rfl
@[simp] theorem State.respond_wv (r : Response) : (s.respond r).wv = s.wv := rfl
@[simp] theorem State.respond_fault (r : Response) : (s.respond r).fault = s.fault := rfl
@[simp] theorem State.respond_err (r : Response) : (s.respond r).err = s.err := rfl
@[simp] theorem State.respond_einfo (r : Response) : (s.respond r).einfo = s.einfo := rfl
@[simp] theorem State.respond_pending (r : Response) : (s.respond r).pending = s.pending := rfl
@[simp] theorem State.respond_responses (r : Response) : (s.respond r).responses = s.responses ++ [r] := rfl

@[simp] theorem State.issued_h (rest : List HostEvent) : (s.issued rest).h = s.h := rfl
@[simp] theorem State.issued_v (rest : List HostEvent) : (s.issued rest).v = s.v := rfl
@[simp] theorem State.issued_m (rest : List HostEvent) : (s.issued rest).m = s.m := rfl
@[simp] theorem State.issued_mlen (rest : List HostEvent) : (s.issued rest).mlen = s.mlen := rfl
@[simp] theorem State.issued_w (rest : List HostEvent) : (s.issued rest).w = s.w := rfl
@[simp] theorem State.issued_bb (rest : List HostEvent) : (s.issued rest).bb = s.bb := rfl
@[simp] theorem State.issued_opa (rest : List HostEvent) : (s.issued rest).opa = s.opa := rfl
@[simp] theorem State.issued_amt (rest : List HostEvent) : (s.issued rest).amt = s.amt := rfl
@[simp] theorem State.issued_res (rest : List HostEvent) : (s.issued rest).res = s.res := rfl
@[simp] theorem State.issued_hv (rest : List HostEvent) : (s.issued rest).hv = s.hv := rfl
@[simp] theorem State.issued_wv (rest : List HostEvent) : (s.issued rest).wv = s.wv := rfl
@[simp] theorem State.issued_fault (rest : List HostEvent) : (s.issued rest).fault = s.fault := rfl
@[simp] theorem State.issued_err (rest : List HostEvent) : (s.issued rest).err = s.err := rfl
@[simp] theorem State.issued_einfo (rest : List HostEvent) : (s.issued rest).einfo = s.einfo := rfl
@[simp] theorem State.issued_pending (rest : List HostEvent) : (s.issued rest).pending = rest := rfl
@[simp] theorem State.issued_responses (rest : List HostEvent) : (s.issued rest).responses = s.responses := rfl

@[simp] theorem State.setOpa_h (d : Word) : (s.setOpa d).h = s.h := rfl
@[simp] theorem State.setOpa_v (d : Word) : (s.setOpa d).v = s.v := rfl
@[simp] theorem State.setOpa_m (d : Word) : (s.setOpa d).m = s.m := rfl
@[simp] theorem State.setOpa_mlen (d : Word) : (s.setOpa d).mlen = s.mlen := rfl
@[simp] theorem State.setOpa_w (d : Word) : (s.setOpa d).w = s.w := rfl
@[simp] theorem State.setOpa_bb (d : Word) : (s.setOpa d).bb = s.bb := rfl
@[simp] theorem State.setOpa_opa (d : Word) : (s.setOpa d).opa = d := rfl
@[simp] theorem State.setOpa_amt (d : Word) : (s.setOpa d).amt = s.amt := rfl
@[simp] theorem State.setOpa_res (d : Word) : (s.setOpa d).res = s.res := rfl
@[simp] theorem State.setOpa_hv (d : Word) : (s.setOpa d).hv = s.hv := rfl
@[simp] theorem State.setOpa_wv (d : Word) : (s.setOpa d).wv = s.wv := rfl
@[simp] theorem State.setOpa_fault (d : Word) : (s.setOpa d).fault = s.fault := rfl
@[simp] theorem State.setOpa_err (d : Word) : (s.setOpa d).err = s.err := rfl
@[simp] theorem State.setOpa_einfo (d : Word) : (s.setOpa d).einfo = s.einfo := rfl
@[simp] theorem State.setOpa_pending (d : Word) : (s.setOpa d).pending = s.pending := rfl
@[simp] theorem State.setOpa_responses (d : Word) : (s.setOpa d).responses = s.responses := rfl

@[simp] theorem State.setAmt_h (d : Word) : (s.setAmt d).h = s.h := rfl
@[simp] theorem State.setAmt_v (d : Word) : (s.setAmt d).v = s.v := rfl
@[simp] theorem State.setAmt_m (d : Word) : (s.setAmt d).m = s.m := rfl
@[simp] theorem State.setAmt_mlen (d : Word) : (s.setAmt d).mlen = s.mlen := rfl
@[simp] theorem State.setAmt_w (d : Word) : (s.setAmt d).w = s.w := rfl
@[simp] theorem State.setAmt_bb (d : Word) : (s.setAmt d).bb = s.bb := rfl
@[simp] theorem State.setAmt_opa (d : Word) : (s.setAmt d).opa = s.opa := rfl
@[simp] theorem State.setAmt_amt (d : Word) : (s.setAmt d).amt = d := rfl
@[simp] theorem State.setAmt_res (d : Word) : (s.setAmt d).res = s.res := rfl
@[simp] theorem State.setAmt_hv (d : Word) : (s.setAmt d).hv = s.hv := rfl
@[simp] theorem State.setAmt_wv (d : Word) : (s.setAmt d).wv = s.wv := rfl
@[simp] theorem State.setAmt_fault (d : Word) : (s.setAmt d).fault = s.fault := rfl
@[simp] theorem State.setAmt_err (d : Word) : (s.setAmt d).err = s.err := rfl
@[simp] theorem State.setAmt_einfo (d : Word) : (s.setAmt d).einfo = s.einfo := rfl
@[simp] theorem State.setAmt_pending (d : Word) : (s.setAmt d).pending = s.pending := rfl
@[simp] theorem State.setAmt_responses (d : Word) : (s.setAmt d).responses = s.responses := rfl

@[simp] theorem State.setRes_h (d : Word) : (s.setRes d).h = s.h := rfl
@[simp] theorem State.setRes_v (d : Word) : (s.setRes d).v = s.v := rfl
@[simp] theorem State.setRes_m (d : Word) : (s.setRes d).m = s.m := rfl
@[simp] theorem State.setRes_mlen (d : Word) : (s.setRes d).mlen = s.mlen := rfl
@[simp] theorem State.setRes_w (d : Word) : (s.setRes d).w = s.w := rfl
@[simp] theorem State.setRes_bb (d : Word) : (s.setRes d).bb = s.bb := rfl
@[simp] theorem State.setRes_opa (d : Word) : (s.setRes d).opa = s.opa := rfl
@[simp] theorem State.setRes_amt (d : Word) : (s.setRes d).amt = s.amt := rfl
@[simp] theorem State.setRes_res (d : Word) : (s.setRes d).res = d := rfl
@[simp] theorem State.setRes_hv (d : Word) : (s.setRes d).hv = s.hv := rfl
@[simp] theorem State.setRes_wv (d : Word) : (s.setRes d).wv = s.wv := rfl
@[simp] theorem State.setRes_fault (d : Word) : (s.setRes d).fault = s.fault := rfl
@[simp] theorem State.setRes_err (d : Word) : (s.setRes d).err = s.err := rfl
@[simp] theorem State.setRes_einfo (d : Word) : (s.setRes d).einfo = s.einfo := rfl
@[simp] theorem State.setRes_pending (d : Word) : (s.setRes d).pending = s.pending := rfl
@[simp] theorem State.setRes_responses (d : Word) : (s.setRes d).responses = s.responses := rfl

@[simp] theorem State.setByte_h (i : Fin 64) (d : Word) : (s.setByte i d).h = s.h := rfl
@[simp] theorem State.setByte_v (i : Fin 64) (d : Word) : (s.setByte i d).v = s.v := rfl
@[simp] theorem State.setByte_m (i : Fin 64) (d : Word) : (s.setByte i d).m = s.m := rfl
@[simp] theorem State.setByte_mlen (i : Fin 64) (d : Word) : (s.setByte i d).mlen = s.mlen := rfl
@[simp] theorem State.setByte_w (i : Fin 64) (d : Word) : (s.setByte i d).w = s.w := rfl
@[simp] theorem State.setByte_bb (i : Fin 64) (d : Word) : (s.setByte i d).bb = s.bb.set i (d.extractLsb' 0 8) := rfl
@[simp] theorem State.setByte_opa (i : Fin 64) (d : Word) : (s.setByte i d).opa = s.opa := rfl
@[simp] theorem State.setByte_amt (i : Fin 64) (d : Word) : (s.setByte i d).amt = s.amt := rfl
@[simp] theorem State.setByte_res (i : Fin 64) (d : Word) : (s.setByte i d).res = s.res := rfl
@[simp] theorem State.setByte_hv (i : Fin 64) (d : Word) : (s.setByte i d).hv = s.hv := rfl
@[simp] theorem State.setByte_wv (i : Fin 64) (d : Word) : (s.setByte i d).wv = s.wv := rfl
@[simp] theorem State.setByte_fault (i : Fin 64) (d : Word) : (s.setByte i d).fault = s.fault := rfl
@[simp] theorem State.setByte_err (i : Fin 64) (d : Word) : (s.setByte i d).err = s.err := rfl
@[simp] theorem State.setByte_einfo (i : Fin 64) (d : Word) : (s.setByte i d).einfo = s.einfo := rfl
@[simp] theorem State.setByte_pending (i : Fin 64) (d : Word) : (s.setByte i d).pending = s.pending := rfl
@[simp] theorem State.setByte_responses (i : Fin 64) (d : Word) : (s.setByte i d).responses = s.responses := rfl

@[simp] theorem State.storeBytes_h (b : Vector Byte 64) : (s.storeBytes b).h = s.h := rfl
@[simp] theorem State.storeBytes_v (b : Vector Byte 64) : (s.storeBytes b).v = s.v := rfl
@[simp] theorem State.storeBytes_m (b : Vector Byte 64) : (s.storeBytes b).m = s.m := rfl
@[simp] theorem State.storeBytes_mlen (b : Vector Byte 64) : (s.storeBytes b).mlen = s.mlen := rfl
@[simp] theorem State.storeBytes_w (b : Vector Byte 64) : (s.storeBytes b).w = s.w := rfl
@[simp] theorem State.storeBytes_bb (b : Vector Byte 64) : (s.storeBytes b).bb = b := rfl
@[simp] theorem State.storeBytes_opa (b : Vector Byte 64) : (s.storeBytes b).opa = s.opa := rfl
@[simp] theorem State.storeBytes_amt (b : Vector Byte 64) : (s.storeBytes b).amt = s.amt := rfl
@[simp] theorem State.storeBytes_res (b : Vector Byte 64) : (s.storeBytes b).res = s.res := rfl
@[simp] theorem State.storeBytes_hv (b : Vector Byte 64) : (s.storeBytes b).hv = s.hv := rfl
@[simp] theorem State.storeBytes_wv (b : Vector Byte 64) : (s.storeBytes b).wv = s.wv := rfl
@[simp] theorem State.storeBytes_fault (b : Vector Byte 64) : (s.storeBytes b).fault = s.fault := rfl
@[simp] theorem State.storeBytes_err (b : Vector Byte 64) : (s.storeBytes b).err = s.err := rfl
@[simp] theorem State.storeBytes_einfo (b : Vector Byte 64) : (s.storeBytes b).einfo = s.einfo := rfl
@[simp] theorem State.storeBytes_pending (b : Vector Byte 64) : (s.storeBytes b).pending = s.pending := rfl
@[simp] theorem State.storeBytes_responses (b : Vector Byte 64) : (s.storeBytes b).responses = s.responses := rfl

@[simp] theorem State.loadWords_h (n : Nat) : (s.loadWords n).h = s.h := rfl
@[simp] theorem State.loadWords_v (n : Nat) : (s.loadWords n).v = s.v := rfl
@[simp] theorem State.loadWords_m (n : Nat) : (s.loadWords n).m = s.loadedWords n := rfl
@[simp] theorem State.loadWords_mlen (n : Nat) : (s.loadWords n).mlen = BitVec.ofNat 5 n := rfl
@[simp] theorem State.loadWords_w (n : Nat) : (s.loadWords n).w = s.w := rfl
@[simp] theorem State.loadWords_bb (n : Nat) : (s.loadWords n).bb = s.bb := rfl
@[simp] theorem State.loadWords_opa (n : Nat) : (s.loadWords n).opa = s.opa := rfl
@[simp] theorem State.loadWords_amt (n : Nat) : (s.loadWords n).amt = s.amt := rfl
@[simp] theorem State.loadWords_res (n : Nat) : (s.loadWords n).res = s.res := rfl
@[simp] theorem State.loadWords_hv (n : Nat) : (s.loadWords n).hv = s.hv := rfl
@[simp] theorem State.loadWords_wv (n : Nat) : (s.loadWords n).wv = s.wv := rfl
@[simp] theorem State.loadWords_fault (n : Nat) : (s.loadWords n).fault = s.fault := rfl
@[simp] theorem State.loadWords_err (n : Nat) : (s.loadWords n).err = s.err := rfl
@[simp] theorem State.loadWords_einfo (n : Nat) : (s.loadWords n).einfo = s.einfo := rfl
@[simp] theorem State.loadWords_pending (n : Nat) : (s.loadWords n).pending = s.pending := rfl
@[simp] theorem State.loadWords_responses (n : Nat) : (s.loadWords n).responses = s.responses := rfl

@[simp] theorem State.loadSchedule_h (x : Schedule) : (s.loadSchedule x).h = s.h := rfl
@[simp] theorem State.loadSchedule_v (x : Schedule) : (s.loadSchedule x).v = s.v := rfl
@[simp] theorem State.loadSchedule_m (x : Schedule) : (s.loadSchedule x).m = s.m := rfl
@[simp] theorem State.loadSchedule_mlen (x : Schedule) : (s.loadSchedule x).mlen = 0 := rfl
@[simp] theorem State.loadSchedule_w (x : Schedule) : (s.loadSchedule x).w = x := rfl
@[simp] theorem State.loadSchedule_bb (x : Schedule) : (s.loadSchedule x).bb = s.bb := rfl
@[simp] theorem State.loadSchedule_opa (x : Schedule) : (s.loadSchedule x).opa = s.opa := rfl
@[simp] theorem State.loadSchedule_amt (x : Schedule) : (s.loadSchedule x).amt = s.amt := rfl
@[simp] theorem State.loadSchedule_res (x : Schedule) : (s.loadSchedule x).res = s.res := rfl
@[simp] theorem State.loadSchedule_hv (x : Schedule) : (s.loadSchedule x).hv = s.hv := rfl
@[simp] theorem State.loadSchedule_wv (x : Schedule) : (s.loadSchedule x).wv = true := rfl
@[simp] theorem State.loadSchedule_fault (x : Schedule) : (s.loadSchedule x).fault = s.fault := rfl
@[simp] theorem State.loadSchedule_err (x : Schedule) : (s.loadSchedule x).err = s.err := rfl
@[simp] theorem State.loadSchedule_einfo (x : Schedule) : (s.loadSchedule x).einfo = s.einfo := rfl
@[simp] theorem State.loadSchedule_pending (x : Schedule) : (s.loadSchedule x).pending = s.pending := rfl
@[simp] theorem State.loadSchedule_responses (x : Schedule) : (s.loadSchedule x).responses = s.responses := rfl

@[simp] theorem State.createHash_h (x : HashState) : (s.createHash x).h = x := rfl
@[simp] theorem State.createHash_v (x : HashState) : (s.createHash x).v = s.v := rfl
@[simp] theorem State.createHash_m (x : HashState) : (s.createHash x).m = s.m := rfl
@[simp] theorem State.createHash_mlen (x : HashState) : (s.createHash x).mlen = s.mlen := rfl
@[simp] theorem State.createHash_w (x : HashState) : (s.createHash x).w = s.w := rfl
@[simp] theorem State.createHash_bb (x : HashState) : (s.createHash x).bb = s.bb := rfl
@[simp] theorem State.createHash_opa (x : HashState) : (s.createHash x).opa = s.opa := rfl
@[simp] theorem State.createHash_amt (x : HashState) : (s.createHash x).amt = s.amt := rfl
@[simp] theorem State.createHash_res (x : HashState) : (s.createHash x).res = s.res := rfl
@[simp] theorem State.createHash_hv (x : HashState) : (s.createHash x).hv = true := rfl
@[simp] theorem State.createHash_wv (x : HashState) : (s.createHash x).wv = s.wv := rfl
@[simp] theorem State.createHash_fault (x : HashState) : (s.createHash x).fault = s.fault := rfl
@[simp] theorem State.createHash_err (x : HashState) : (s.createHash x).err = s.err := rfl
@[simp] theorem State.createHash_einfo (x : HashState) : (s.createHash x).einfo = s.einfo := rfl
@[simp] theorem State.createHash_pending (x : HashState) : (s.createHash x).pending = s.pending := rfl
@[simp] theorem State.createHash_responses (x : HashState) : (s.createHash x).responses = s.responses := rfl

@[simp] theorem State.foldHash_h (x y : HashState) : (s.foldHash x y).h = y := rfl
@[simp] theorem State.foldHash_v (x y : HashState) : (s.foldHash x y).v = x := rfl
@[simp] theorem State.foldHash_m (x y : HashState) : (s.foldHash x y).m = s.m := rfl
@[simp] theorem State.foldHash_mlen (x y : HashState) : (s.foldHash x y).mlen = s.mlen := rfl
@[simp] theorem State.foldHash_w (x y : HashState) : (s.foldHash x y).w = s.w := rfl
@[simp] theorem State.foldHash_bb (x y : HashState) : (s.foldHash x y).bb = s.bb := rfl
@[simp] theorem State.foldHash_opa (x y : HashState) : (s.foldHash x y).opa = s.opa := rfl
@[simp] theorem State.foldHash_amt (x y : HashState) : (s.foldHash x y).amt = s.amt := rfl
@[simp] theorem State.foldHash_res (x y : HashState) : (s.foldHash x y).res = s.res := rfl
@[simp] theorem State.foldHash_hv (x y : HashState) : (s.foldHash x y).hv = s.hv := rfl
@[simp] theorem State.foldHash_wv (x y : HashState) : (s.foldHash x y).wv = false := rfl
@[simp] theorem State.foldHash_fault (x y : HashState) : (s.foldHash x y).fault = s.fault := rfl
@[simp] theorem State.foldHash_err (x y : HashState) : (s.foldHash x y).err = s.err := rfl
@[simp] theorem State.foldHash_einfo (x y : HashState) : (s.foldHash x y).einfo = s.einfo := rfl
@[simp] theorem State.foldHash_pending (x y : HashState) : (s.foldHash x y).pending = s.pending := rfl
@[simp] theorem State.foldHash_responses (x y : HashState) : (s.foldHash x y).responses = s.responses := rfl

@[simp] theorem State.resetCore_h : s.resetCore.h = State.reset.h := rfl
@[simp] theorem State.resetCore_v : s.resetCore.v = State.reset.v := rfl
@[simp] theorem State.resetCore_m : s.resetCore.m = State.reset.m := rfl
@[simp] theorem State.resetCore_mlen : s.resetCore.mlen = State.reset.mlen := rfl
@[simp] theorem State.resetCore_w : s.resetCore.w = State.reset.w := rfl
@[simp] theorem State.resetCore_bb : s.resetCore.bb = State.reset.bb := rfl
@[simp] theorem State.resetCore_opa : s.resetCore.opa = State.reset.opa := rfl
@[simp] theorem State.resetCore_amt : s.resetCore.amt = State.reset.amt := rfl
@[simp] theorem State.resetCore_res : s.resetCore.res = State.reset.res := rfl
@[simp] theorem State.resetCore_hv : s.resetCore.hv = State.reset.hv := rfl
@[simp] theorem State.resetCore_wv : s.resetCore.wv = State.reset.wv := rfl
@[simp] theorem State.resetCore_fault : s.resetCore.fault = State.reset.fault := rfl
@[simp] theorem State.resetCore_err : s.resetCore.err = State.reset.err := rfl
@[simp] theorem State.resetCore_einfo : s.resetCore.einfo = State.reset.einfo := rfl
@[simp] theorem State.resetCore_pending : s.resetCore.pending = s.pending := rfl
@[simp] theorem State.resetCore_responses : s.resetCore.responses = s.responses := rfl

@[simp] theorem State.raise_h (e : ErrCode) (info : Word) : (s.raise e info).h = s.h := by
  unfold State.raise; split <;> rfl
@[simp] theorem State.raise_v (e : ErrCode) (info : Word) : (s.raise e info).v = s.v := by
  unfold State.raise; split <;> rfl
@[simp] theorem State.raise_m (e : ErrCode) (info : Word) : (s.raise e info).m = s.m := by
  unfold State.raise; split <;> rfl
@[simp] theorem State.raise_mlen (e : ErrCode) (info : Word) : (s.raise e info).mlen = s.mlen := by
  unfold State.raise; split <;> rfl
@[simp] theorem State.raise_w (e : ErrCode) (info : Word) : (s.raise e info).w = s.w := by
  unfold State.raise; split <;> rfl
@[simp] theorem State.raise_bb (e : ErrCode) (info : Word) : (s.raise e info).bb = s.bb := by
  unfold State.raise; split <;> rfl
@[simp] theorem State.raise_opa (e : ErrCode) (info : Word) : (s.raise e info).opa = s.opa := by
  unfold State.raise; split <;> rfl
@[simp] theorem State.raise_amt (e : ErrCode) (info : Word) : (s.raise e info).amt = s.amt := by
  unfold State.raise; split <;> rfl
@[simp] theorem State.raise_res (e : ErrCode) (info : Word) : (s.raise e info).res = s.res := by
  unfold State.raise; split <;> rfl
@[simp] theorem State.raise_hv (e : ErrCode) (info : Word) : (s.raise e info).hv = s.hv := by
  unfold State.raise; split <;> rfl
@[simp] theorem State.raise_wv (e : ErrCode) (info : Word) : (s.raise e info).wv = s.wv := by
  unfold State.raise; split <;> rfl
@[simp] theorem State.raise_pending (e : ErrCode) (info : Word) : (s.raise e info).pending = s.pending := by
  unfold State.raise; split <;> rfl
@[simp] theorem State.raise_responses (e : ErrCode) (info : Word) : (s.raise e info).responses = s.responses := by
  unfold State.raise; split <;> rfl

end Sys2Proof.Machine
end

