-- ==== Sys2Proof/Laws/Ops.lean ====
section
/-! SUPPORT. What the shared operations do, said once: fault entry, the lock check, reset, the byte serialiser, the word
loader, the address map. -/

namespace Sys2Proof.Machine

variable (s t : State) (e : ErrCode) (info : Word)

theorem State.raise_of_unlocked (h : s.fault = false) : s.raise e info = s.latch e info := by
  simp [State.raise, h]

theorem State.raise_of_locked (h : s.fault = true) : s.raise e info = s := by
  simp [State.raise, h]

/-- After a raise the core is locked, whatever it was before. -/
@[simp] theorem State.raise_fault : (s.raise e info).fault = true := by
  unfold State.raise; split <;> simp_all

/-- Everything a raise can do. -/
theorem State.raise_cases :
    (s.fault = true ∧ s.raise e info = s) ∨ (s.fault = false ∧ s.raise e info = s.latch e info) := by
  cases h : s.fault <;> simp [State.raise, h]

theorem State.ifUnlocked_of_unlocked (h : s.fault = false) : s.ifUnlocked t = t := by
  simp [State.ifUnlocked, h]

theorem State.ifUnlocked_of_locked (h : s.fault = true) : s.ifUnlocked t = s := by
  simp [State.ifUnlocked, h]

/-- Everything the lock check can do. -/
theorem State.ifUnlocked_cases :
    (s.fault = true ∧ s.ifUnlocked t = s) ∨ (s.fault = false ∧ s.ifUnlocked t = t) := by
  cases h : s.fault <;> simp [State.ifUnlocked, h]

/-- A command body that leaves the port alone still does behind the lock check. -/
theorem State.ifUnlocked_port (h : t.pending = s.pending ∧ t.responses = s.responses) :
    (s.ifUnlocked t).pending = s.pending ∧ (s.ifUnlocked t).responses = s.responses := by
  rcases State.ifUnlocked_cases s t with ⟨_, ht⟩ | ⟨_, ht⟩ <;> simp [ht, h]

theorem State.resetCore_resetCore : s.resetCore.resetCore = s.resetCore := rfl

theorem serialise_getElem {n : Nat} (words : Vector Word n) (count : Nat) (bb : Vector Byte 64)
    (i : Nat) (hi : i < 64) :
    (serialise words count bb)[i] =
      if h : i < 4 * count ∧ i / 4 < n then byteK (i % 4) words[i / 4] else bb[i] := by
  unfold serialise
  simp

theorem State.loadedWords_getElem (count j : Nat) (hj : j < 16) :
    (s.loadedWords count)[j] = if j < count then s.bbWord ⟨j, hj⟩ else s.m[j] := by
  unfold State.loadedWords
  simp

/-- Two states with the same byte buffer assemble the same words. -/
theorem State.bbWord_congr (h : s.bb = t.bb) (j : Fin 16) : s.bbWord j = t.bbWord j := by
  simp [State.bbWord, h]

@[simp] theorem State.readReg_cmd : s.readReg .cmd = none := rfl

/-- R31 bits 0, 1, 2: a read of `STATUS` shows the flags. -/
theorem State.statusWord_flags :
    s.statusWord.getLsbD 0 = s.hv ∧ s.statusWord.getLsbD 1 = s.wv ∧ s.statusWord.getLsbD 2 = s.fault := by
  refine ⟨?_, ?_, ?_⟩ <;> simp only [State.statusWord, BitVec.getLsbD_append] <;> simp

end Sys2Proof.Machine
end

