-- ==== Sys2Proof/Laws/Exec.lean ====
section
/-! SUPPORT. What a command and a transaction can do, said once. -/

namespace Sys2Proof.Machine

/-- Every command answers a next state: nothing on this hardware stops (R165, R205). -/
theorem exec_next (i : Instr) (s : State) : ∃ t, exec i s = .next t := by
  cases i <;> exact ⟨_, rfl⟩

/-- A command leaves the host's side of the port alone. -/
theorem exec_port (i : Instr) (s t : State) (h : exec i s = .next t) :
    t.pending = s.pending ∧ t.responses = s.responses := by
  cases i <;> injection h with h <;> subst h
  case rst => exact ⟨rfl, rfl⟩
  all_goals
    refine State.ifUnlocked_port _ _ ?_
    repeat' split
    all_goals simp

/-- A locked core performs no command but `RST`. -/
theorem exec_of_locked (i : Instr) (s : State) (h : s.fault = true) (hi : i ≠ .rst) :
    exec i s = .next s := by
  cases i <;> first
    | exact absurd rfl hi
    | simp [exec, execB2w, execW2b, execRotr, execExpand, execCompress, execInit,
        State.ifUnlocked_of_locked, h]

@[simp] theorem exec_rst (s : State) : exec .rst s = .next s.resetCore := rfl

/-! Everything each command can do, one lemma a command: the lock, its faults, its effect. -/

theorem execB2w_cases {len : BitVec 8} {s t : State} (h : exec (.b2w len) s = .next t) :
    (s.fault = true ∧ t = s) ∨
    (s.fault = false ∧ 64 < len.toNat ∧ t = s.latch .eOpc (encode (.b2w len))) ∨
    (s.fault = false ∧ len.toNat ≤ 64 ∧ len.toNat % 4 ≠ 0 ∧ t = s.latch .eLen (encode (.b2w len))) ∨
    (s.fault = false ∧ len.toNat ≤ 64 ∧ len.toNat % 4 = 0 ∧ t = s.loadWords (len.toNat / 4)) := by
  injection h with h
  subst h
  rcases State.ifUnlocked_cases s (if len.toNat > Config.byteBufferSize then s.raise .eOpc (encode (.b2w len))
    else if len.toNat % Config.wordSize ≠ 0 then s.raise .eLen (encode (.b2w len))
    else s.loadWords (len.toNat / Config.wordSize)) with ⟨hf, ht⟩ | ⟨hf, ht⟩
  · exact .inl ⟨hf, ht⟩
  · rw [ht]
    split
    · exact .inr (.inl ⟨hf, ‹_›, State.raise_of_unlocked s _ _ hf⟩)
    · rename_i h1
      split
      · exact .inr (.inr (.inl ⟨hf, Nat.not_lt.mp h1, ‹_›, State.raise_of_unlocked s _ _ hf⟩))
      · rename_i h2
        exact .inr (.inr (.inr ⟨hf, Nat.not_lt.mp h1, Decidable.not_not.mp h2, rfl⟩))

theorem execW2b_cases {src : BitVec 8} {s t : State} (h : exec (.w2b src) s = .next t) :
    (s.fault = true ∧ t = s) ∨
    (s.fault = false ∧ 1 < src.toNat ∧ t = s.latch .eOpc (encode (.w2b src))) ∨
    (s.fault = false ∧ src = 1 ∧ s.hv = false ∧ t = s.latch .eSeq (encode (.w2b src))) ∨
    (s.fault = false ∧ src = 0 ∧ t = s.storeBytes (serialise s.m s.mlen.toNat s.bb)) ∨
    (s.fault = false ∧ src = 1 ∧ s.hv = true ∧ t = s.storeBytes (serialise s.h 8 s.bb)) := by
  injection h with h
  subst h
  have hsrc : ∀ n : Nat, n < 256 → src.toNat = n → src = BitVec.ofNat 8 n := fun n _ e => by
    subst e; simp
  rcases State.ifUnlocked_cases s (if src.toNat > 1 then s.raise .eOpc (encode (.w2b src))
    else if src.toNat = 1 ∧ s.hv = false then s.raise .eSeq (encode (.w2b src))
    else if src.toNat = 0 then s.storeBytes (serialise s.m s.mlen.toNat s.bb)
    else s.storeBytes (serialise s.h 8 s.bb)) with ⟨hf, ht⟩ | ⟨hf, ht⟩
  · exact .inl ⟨hf, ht⟩
  · rw [ht]
    split
    · exact .inr (.inl ⟨hf, ‹_›, State.raise_of_unlocked s _ _ hf⟩)
    · rename_i h1
      split
      · rename_i h2
        exact .inr (.inr (.inl ⟨hf, hsrc 1 (by decide) h2.1, h2.2, State.raise_of_unlocked s _ _ hf⟩))
      · rename_i h2
        split
        · rename_i h3
          exact .inr (.inr (.inr (.inl ⟨hf, hsrc 0 (by decide) h3, rfl⟩)))
        · rename_i h3
          have e : src.toNat = 1 := by omega
          exact .inr (.inr (.inr (.inr ⟨hf, hsrc 1 (by decide) e, by simpa [e] using h2, rfl⟩)))

theorem execRotr_cases {s t : State} (h : exec .rotr s = .next t) :
    (s.fault = true ∧ t = s) ∨
    (s.fault = false ∧ t = s.setRes (rotr s.opa (rotateAmount s.amt))) := by
  injection h with h
  subst h
  exact State.ifUnlocked_cases s _

theorem execExpand_cases {s t : State} (h : exec .expand s = .next t) :
    (s.fault = true ∧ t = s) ∨
    (s.fault = false ∧ s.mlen = 0 ∧ t = s.latch .eSeq (encode .expand)) ∨
    (s.fault = false ∧ s.mlen ≠ 0 ∧ s.mlen ≠ 16 ∧ t = s.latch .eLen (encode .expand)) ∨
    (s.fault = false ∧ s.mlen = 16 ∧ t = s.loadSchedule (Machine.expand s.m)) := by
  injection h with h
  subst h
  rcases State.ifUnlocked_cases s (if s.mlen = 0 then s.raise .eSeq (encode .expand)
    else if s.mlen ≠ 16 then s.raise .eLen (encode .expand)
    else s.loadSchedule (Machine.expand s.m)) with ⟨hf, ht⟩ | ⟨hf, ht⟩
  · exact .inl ⟨hf, ht⟩
  · rw [ht]
    split
    · exact .inr (.inl ⟨hf, ‹_›, State.raise_of_unlocked s _ _ hf⟩)
    · split
      · exact .inr (.inr (.inl ⟨hf, ‹_›, ‹_›, State.raise_of_unlocked s _ _ hf⟩))
      · rename_i h2
        exact .inr (.inr (.inr ⟨hf, by simpa using h2, rfl⟩))

theorem execCompress_cases {s t : State} (h : exec .compress s = .next t) :
    (s.fault = true ∧ t = s) ∨
    (s.fault = false ∧ (s.hv = false ∨ s.wv = false) ∧ t = s.latch .eSeq (encode .compress)) ∨
    (s.fault = false ∧ s.hv = true ∧ s.wv = true ∧
      t = s.foldHash (compressRounds s.w s.h) (compressBlock s.h s.w)) := by
  injection h with h
  subst h
  rcases State.ifUnlocked_cases s (if s.hv = false ∨ s.wv = false then s.raise .eSeq (encode .compress)
    else s.foldHash (compressRounds s.w s.h) (compressBlock s.h s.w)) with ⟨hf, ht⟩ | ⟨hf, ht⟩
  · exact .inl ⟨hf, ht⟩
  · rw [ht]
    split
    · exact .inr (.inl ⟨hf, ‹_›, State.raise_of_unlocked s _ _ hf⟩)
    · rename_i h1
      simp only [not_or, Bool.not_eq_false] at h1
      exact .inr (.inr ⟨hf, h1.1, h1.2, rfl⟩)

theorem execInit_cases {s t : State} (h : exec .init s = .next t) :
    (s.fault = true ∧ t = s) ∨ (s.fault = false ∧ t = s.createHash Rom.h0) := by
  injection h with h
  subst h
  exact State.ifUnlocked_cases s _

theorem execRst_cases {s t : State} (h : exec .rst s = .next t) : t = s.resetCore := by
  injection h with h
  exact h.symm

theorem launch_of_exec {i : Instr} {s t : State} (h : exec i s = .next t) :
    launch i s = .next (t.respond (.wr t.fault)) := by
  simp [launch, h]

/-- A launched command: its own next state, with the response of the `WR`. -/
theorem launch_cases {i : Instr} {s u : State} (h : launch i s = .next u) :
    ∃ t, exec i s = .next t ∧ u = t.respond (.wr t.fault) := by
  obtain ⟨t, ht⟩ := exec_next i s
  rw [launch_of_exec ht] at h
  exact ⟨t, ht, by injection h with h; exact h.symm⟩

/-- Everything a write of `CMD` on an unlocked core can do. -/
theorem writeCommand_cases {c : Word} {s u : State} (h : writeCommand c s = .next u) :
    (∃ i t, decode c = .command i ∧ exec i s = .next t ∧ u = t.respond (.wr t.fault)) ∨
    (∃ why, decode c = .illegal why ∧ u = (s.raise .eOpc c).respond (.wr true)) := by
  unfold writeCommand at h
  cases hd : decode c with
  | command i =>
    rw [hd] at h
    obtain ⟨t, ht, hu⟩ := launch_cases h
    exact .inl ⟨i, t, rfl, ht, hu⟩
  | illegal why =>
    rw [hd] at h
    injection h with h
    exact .inr ⟨why, rfl, h.symm⟩

/-- Everything a `WR` on an unlocked core can do (R151): a command, `OPA`, `AMT`, a byte of `BB`, or an
illegal access. -/
theorem writeReg_cases {a : Addr} {d : Word} {s u : State} (h : writeReg a d s = .next u) :
    (regAt a = some .cmd ∧ writeCommand d s = .next u) ∨
    (regAt a = some .opa ∧ u = (s.setOpa d).respond (.wr false)) ∨
    (regAt a = some .amt ∧ u = (s.setAmt d).respond (.wr false)) ∨
    (∃ i, regAt a = some (.bb i) ∧ u = (s.setByte i d).respond (.wr false)) ∨
    (regAt a ≠ some .cmd ∧ regAt a ≠ some .opa ∧ regAt a ≠ some .amt ∧ (∀ i, regAt a ≠ some (.bb i)) ∧
      u = (s.raise .eAcc (accessInfo true a)).respond (.wr true)) := by
  unfold writeReg at h
  split at h <;> rename_i hr
  case h_1 => exact .inl ⟨hr, h⟩
  case h_2 => injection h with h; exact .inr (.inl ⟨hr, h.symm⟩)
  case h_3 => injection h with h; exact .inr (.inr (.inl ⟨hr, h.symm⟩))
  case h_4 i => injection h with h; exact .inr (.inr (.inr (.inl ⟨i, hr, h.symm⟩)))
  all_goals
    injection h with h
    exact .inr (.inr (.inr (.inr (by simp [hr, ← h]))))

/-- Everything a `WR` can do (R151). -/
theorem execWr_cases {a : Addr} {d : Word} {s u : State} (h : execWr a d s = .next u) :
    (s.fault = true ∧ a = 0x00 ∧ d = 0x000000FF ∧ u = s.resetCore.respond (.wr false)) ∨
    (s.fault = true ∧ ¬ (a = 0x00 ∧ d = 0x000000FF) ∧ u = s.respond (.wr true)) ∨
    (s.fault = false ∧ writeReg a d s = .next u) := by
  unfold execWr at h
  split at h
  · split at h
    · rename_i hf ha
      injection h with h
      exact .inl ⟨hf, ha.1, ha.2, h.symm⟩
    · rename_i hf ha
      injection h with h
      exact .inr (.inl ⟨hf, ha, h.symm⟩)
  · rename_i hf
    exact .inr (.inr ⟨by simpa using hf, h⟩)

/-- Everything a `RD` can do (R152). -/
theorem execRd_cases {a : Addr} {s u : State} (h : execRd a s = .next u) :
    (∃ d, s.regRead a = some d ∧ u = s.respond (.rd false d)) ∨
    (s.regRead a = none ∧ u = (s.raise .eAcc (accessInfo false a)).respond (.rd true 0)) := by
  unfold execRd at h
  split at h <;> rename_i hr <;> injection h with h
  · exact .inl ⟨_, hr, h.symm⟩
  · exact .inr ⟨hr, h.symm⟩

theorem launch_next (i : Instr) (s : State) : ∃ u, launch i s = .next u := by
  obtain ⟨t, ht⟩ := exec_next i s
  exact ⟨_, launch_of_exec ht⟩

theorem writeReg_next (a : Addr) (d : Word) (s : State) : ∃ u, writeReg a d s = .next u := by
  unfold writeReg
  split
  case h_1 =>
    unfold writeCommand
    split
    · exact launch_next _ _
    · exact ⟨_, rfl⟩
  all_goals exact ⟨_, rfl⟩

/-- Every event of the host is performed to completion. -/
theorem perform_next (e : HostEvent) (s : State) : ∃ u, perform e s = .next u := by
  match e with
  | .transaction (.wr a d) =>
    simp only [perform, execWr]
    split
    · split
      · exact launch_next _ _
      · exact ⟨_, rfl⟩
    · exact writeReg_next a d s
  | .transaction (.rd a) =>
    simp only [perform, execRd]
    split <;> exact ⟨_, rfl⟩
  | .resetInput => exact ⟨_, rfl⟩

end Sys2Proof.Machine
end

