-- ==== Sys2Proof/Laws/RegMap.lean ====
section
/-! SUPPORT. The address map: an address and the register it names. -/

namespace Sys2Proof.Machine

/-- A register is found at its own address. -/
theorem regAt_addr (r : Reg) : regAt r.addr = some r := by
  have h : (∀ i : Fin 8, regAt (Reg.addr (.h i)) = some (.h i)) ∧ (∀ i : Fin 8, regAt (Reg.addr (.v i)) = some (.v i)) ∧
      (∀ i : Fin 8, regAt (Reg.addr (.h0 i)) = some (.h0 i)) ∧ (∀ i : Fin 16, regAt (Reg.addr (.m i)) = some (.m i)) ∧
      (∀ i : Fin 64, regAt (Reg.addr (.w i)) = some (.w i)) ∧ (∀ i : Fin 64, regAt (Reg.addr (.k i)) = some (.k i)) ∧
      (∀ i : Fin 64, regAt (Reg.addr (.bb i)) = some (.bb i)) := by decide
  obtain ⟨h1, h2, h3, h4, h5, h6, h7⟩ := h
  cases r <;> first | rfl | apply h1 | apply h2 | apply h3 | apply h4 | apply h5 | apply h6 | apply h7

/-- The register an address names has that address. -/
theorem addr_of_regAt {a : Addr} {r : Reg} (h : regAt a = some r) : a = r.addr := by
  have key : ∀ n : Fin 256, (regAt (BitVec.ofFin n)).all (fun q => decide (BitVec.ofFin n = q.addr)) = true := by
    decide +kernel
  have ha := key a.toFin
  rw [BitVec.ofFin_toFin, h] at ha
  simpa using ha

theorem regAt_of_byte (a : Addr) (h : 0xC0 ≤ a.toNat) :
    regAt a = some (.bb ⟨a.toNat - 0xC0, by have := a.isLt; omega⟩) := by
  unfold regAt
  repeat rw [if_neg (by omega)]
  repeat (first | rw [dif_neg (by omega)] | rw [if_neg (by omega)])

/-- Reading a register at its address. -/
theorem State.regRead_addr (s : State) (r : Reg) : s.regRead r.addr = s.readReg r := by
  simp [State.regRead, regAt_addr]

/-- The information word of an illegal access as a number: `0x100 + addr` for a `WR`, `addr` for a `RD`
(R165). -/
theorem accessInfo_eq (write : Bool) (a : Addr) :
    accessInfo write a = BitVec.ofNat 32 (256 * write.toNat + a.toNat) := by
  have key : ∀ (b : Bool) (n : Fin 256),
      accessInfo b (BitVec.ofFin n) = BitVec.ofNat 32 (256 * b.toNat + n.val) := by decide +kernel
  exact key write a.toFin

end Sys2Proof.Machine
end

