-- ==== Sys2Proof/Laws/Step.lean ====
section
/-! SUPPORT. What one step does, said once. -/

namespace Sys2Proof.Machine

/-- With nothing to issue, nothing happens. -/
theorem step_of_idle (s : State) (h : s.pending = []) : step s = .next s := by
  simp [step, performNext, h]

/-- A step performs the host's next event. -/
theorem step_of_pending (s : State) (e : HostEvent) (rest : List HostEvent) (h : s.pending = e :: rest) :
    step s = perform e (s.issued rest) := by
  simp [step, performNext, h]

/-- Everything a step can do. -/
theorem step_cases {s u : State} (h : step s = .next u) :
    (s.pending = [] ∧ u = s) ∨ ∃ e rest, s.pending = e :: rest ∧ perform e (s.issued rest) = .next u := by
  cases hp : s.pending with
  | nil =>
    rw [step_of_idle s hp] at h
    injection h with h
    exact .inl ⟨rfl, h.symm⟩
  | cons e rest =>
    rw [step_of_pending s e rest hp] at h
    exact .inr ⟨e, rest, rfl, h⟩

/-- Everything a step can make of a state, one constructor for each way an event is performed (R151,
R152, R190); `step_effect` proves it of every step. -/
inductive StepEffect (s : State) : State → Prop where
  | idle (hp : s.pending = []) : StepEffect s s
  | resetInput (rest : List HostEvent) (hp : s.pending = .resetInput :: rest) :
      StepEffect s (s.issued rest).resetCore
  | read (a : Addr) (d : Word) (rest : List HostEvent) (hp : s.pending = .transaction (.rd a) :: rest)
      (hr : s.regRead a = some d) : StepEffect s ((s.issued rest).respond (.rd false d))
  | badRead (a : Addr) (rest : List HostEvent) (hp : s.pending = .transaction (.rd a) :: rest)
      (hr : s.regRead a = none) :
      StepEffect s (((s.issued rest).raise .eAcc (accessInfo false a)).respond (.rd true 0))
  | lockedRst (rest : List HostEvent) (hp : s.pending = .transaction (.wr 0x00 0x000000FF) :: rest)
      (hf : s.fault = true) : StepEffect s ((s.issued rest).resetCore.respond (.wr false))
  | lockedWrite (a : Addr) (d : Word) (rest : List HostEvent)
      (hp : s.pending = .transaction (.wr a d) :: rest) (hf : s.fault = true)
      (hn : ¬ (a = 0x00 ∧ d = 0x000000FF)) : StepEffect s ((s.issued rest).respond (.wr true))
  | command (c : Word) (i : Instr) (t : State) (rest : List HostEvent)
      (hp : s.pending = .transaction (.wr 0x00 c) :: rest) (hf : s.fault = false)
      (hd : decode c = .command i) (ht : exec i (s.issued rest) = .next t) :
      StepEffect s (t.respond (.wr t.fault))
  | illegalWord (c : Word) (why : Illegal) (rest : List HostEvent)
      (hp : s.pending = .transaction (.wr 0x00 c) :: rest) (hf : s.fault = false)
      (hd : decode c = .illegal why) : StepEffect s (((s.issued rest).latch .eOpc c).respond (.wr true))
  | writeOpa (d : Word) (rest : List HostEvent) (hp : s.pending = .transaction (.wr 0x04 d) :: rest)
      (hf : s.fault = false) : StepEffect s (((s.issued rest).setOpa d).respond (.wr false))
  | writeAmt (d : Word) (rest : List HostEvent) (hp : s.pending = .transaction (.wr 0x05 d) :: rest)
      (hf : s.fault = false) : StepEffect s (((s.issued rest).setAmt d).respond (.wr false))
  | writeByte (i : Fin 64) (d : Word) (rest : List HostEvent)
      (hp : s.pending = .transaction (.wr (BitVec.ofNat 8 (0xC0 + i.val)) d) :: rest) (hf : s.fault = false) :
      StepEffect s (((s.issued rest).setByte i d).respond (.wr false))
  | badWrite (a : Addr) (d : Word) (rest : List HostEvent)
      (hp : s.pending = .transaction (.wr a d) :: rest) (hf : s.fault = false)
      (h0 : a ≠ 0x00) (h4 : a ≠ 0x04) (h5 : a ≠ 0x05) (hb : a.toNat < 0xC0) :
      StepEffect s (((s.issued rest).latch .eAcc (accessInfo true a)).respond (.wr true))

/-- The inversion of a step. -/
theorem step_effect {s u : State} (h : step s = .next u) : StepEffect s u := by
  rcases step_cases h with ⟨hp, rfl⟩ | ⟨e, rest, hp, he⟩
  · exact .idle hp
  match e with
  | .resetInput => injection he with he; subst he; exact .resetInput rest hp
  | .transaction (.rd a) =>
    rcases execRd_cases he with ⟨d, hr, rfl⟩ | ⟨hr, rfl⟩
    · exact .read a d rest hp hr
    · exact .badRead a rest hp hr
  | .transaction (.wr a d) =>
    rcases execWr_cases he with ⟨hf, rfl, rfl, rfl⟩ | ⟨hf, hn, rfl⟩ | ⟨hf, hw⟩
    · exact .lockedRst rest hp hf
    · exact .lockedWrite a d rest hp hf hn
    · have hf' : s.fault = false := hf
      rcases writeReg_cases hw with ⟨hr, hc⟩ | ⟨hr, rfl⟩ | ⟨hr, rfl⟩ | ⟨i, hr, rfl⟩ | ⟨h0, h4, h5, hb, rfl⟩
      · obtain rfl : a = 0x00 := addr_of_regAt hr
        rcases writeCommand_cases hc with ⟨i, t, hd, ht, rfl⟩ | ⟨why, hd, rfl⟩
        · exact .command d i t rest hp hf' hd ht
        · rw [State.raise_of_unlocked _ _ _ hf]
          exact .illegalWord d why rest hp hf' hd
      · obtain rfl : a = 0x04 := addr_of_regAt hr
        exact .writeOpa d rest hp hf'
      · obtain rfl : a = 0x05 := addr_of_regAt hr
        exact .writeAmt d rest hp hf'
      · obtain rfl : a = BitVec.ofNat 8 (0xC0 + i.val) := addr_of_regAt hr
        exact .writeByte i d rest hp hf'
      · rw [State.raise_of_unlocked _ _ _ hf]
        refine .badWrite a d rest hp hf' ?_ ?_ ?_ ?_
        · rintro rfl; exact h0 (regAt_addr .cmd)
        · rintro rfl; exact h4 (regAt_addr .opa)
        · rintro rfl; exact h5 (regAt_addr .amt)
        · by_contra hlt
          have ha := a.isLt
          exact hb ⟨a.toNat - 0xC0, by omega⟩ (regAt_of_byte a (by omega))

end Sys2Proof.Machine
end

