-- ==== Sys2Proof/Laws/Word.lean ====
section
/-! SUPPORT. Facts about the word primitives and the pure functions of the expander and compressor. -/

namespace Sys2Proof.Machine

/-- `rotr` is the library's rotation, for every amount the spec gives it. -/
theorem rotr_eq_rotateRight (x : Word) (r : Nat) (h : r < 32) : rotr x r = x.rotateRight r := by
  unfold rotr shr
  split
  · subst_vars; simp [BitVec.rotateRight, BitVec.rotateRightAux]
  · rw [BitVec.rotateRight_def, Nat.mod_eq_of_lt h]

theorem rotateAmount_lt (a : Word) : rotateAmount a < 32 := (a.extractLsb' 0 5).isLt

theorem rotateAmount_eq (a : Word) : rotateAmount a = a.toNat % 32 := by
  simp [rotateAmount, BitVec.extractLsb'_toNat]

/-- The bytes of a word assembled again give the word (R16). -/
theorem be32_byteK (x : Word) : be32 (byteK 0 x) (byteK 1 x) (byteK 2 x) (byteK 3 x) = x := by
  apply BitVec.eq_of_getLsbD_eq
  intro i hi
  simp only [be32, byteK, BitVec.getLsbD_append, BitVec.getLsbD_extractLsb']
  split
  · simp [*]
  · split
    · have : 8 + (i - 8) = i := by omega
      simp [*]
    · split
      · have : 16 + (i - 8 - 8) = i := by omega
        simp_all
      · have : 24 + (i - 8 - 8 - 8) = i := by omega
        have : i - 8 - 8 - 8 < 8 := by omega
        simp_all

/-- The positions below 16 of a schedule are its block (R121: "copied verbatim"). -/
theorem schedulePositions_getElem_lt (b : Block) (n i : Nat) (hi : i < 16) :
    (schedulePositions b n)[i] = b[i] := by
  induction n with
  | zero => rfl
  | succ n ih =>
    simp only [schedulePositions]
    rw [Vector.getElem_push_lt (by omega), ih]

/-- A position once computed is not changed by later ones (R123). -/
theorem schedulePositions_getElem_succ (b : Block) (n i : Nat) (hi : i < 16 + n) :
    (schedulePositions b (n + 1))[i] = (schedulePositions b n)[i] := by
  simp only [schedulePositions]
  rw [Vector.getElem_push_lt hi]

/-- A position once computed is the same in every longer schedule. -/
theorem schedulePositions_getElem_add (b : Block) (n k i : Nat) (hi : i < 16 + n) :
    (schedulePositions b (n + k))[i] = (schedulePositions b n)[i] := by
  induction k with
  | zero => rfl
  | succ k ih =>
    rw [← ih]
    exact schedulePositions_getElem_succ b (n + k) i (by omega)

/-- The last of `16 + n + 1` positions, from the earlier ones (R121). -/
theorem schedulePositions_last (b : Block) (n : Nat) :
    (schedulePositions b (n + 1))[16 + n] =
      (schedulePositions b n)[n] + ssig0 (schedulePositions b n)[n + 1] + (schedulePositions b n)[n + 9]
        + ssig1 (schedulePositions b n)[n + 14] := by
  simp [schedulePositions, add32]

/-- The first 16 words of a schedule are its block. -/
theorem expand_getElem_lt (b : Block) (i : Nat) (hi : i < 16) : (expand b)[i] = b[i] := by
  unfold expand
  exact schedulePositions_getElem_lt b 48 i hi

/-- The recurrence of R121, at position `n + 16`. -/
theorem expand_getElem_add (b : Block) (n : Nat) (hn : n < 48) :
    (expand b)[n + 16] =
      (expand b)[n] + ssig0 (expand b)[n + 1] + (expand b)[n + 9] + ssig1 (expand b)[n + 14] := by
  have h : ∀ i (hi : i < 16 + (n + 1)), (expand b)[i]'(by omega) = (schedulePositions b (n + 1))[i] := by
    intro i hi
    have key := schedulePositions_getElem_add b (n + 1) (47 - n) i hi
    have gen : ∀ m (hm : m = n + 1 + (47 - n)),
        (schedulePositions b m)[i]'(by omega) = (schedulePositions b (n + 1))[i] := by
      intro m hm
      subst hm
      exact key
    unfold expand
    exact gen 48 (by omega)
  rw [h (n + 16) (by omega), h n (by omega), h (n + 1) (by omega), h (n + 9) (by omega), h (n + 14) (by omega)]
  have last := schedulePositions_last b n
  simp only [Nat.add_comm 16 n] at last
  rw [last, schedulePositions_getElem_succ _ _ _ (by omega), schedulePositions_getElem_succ _ _ _ (by omega),
    schedulePositions_getElem_succ _ _ _ (by omega), schedulePositions_getElem_succ _ _ _ (by omega)]

/-- The working variables after the first `n` rounds from `v` (R133). -/
def roundsTo (w : Schedule) (v : HashState) : Nat → HashState
  | 0 => v
  | n + 1 => if h : n < 64 then compressRound Rom.k[n] w[n] (roundsTo w v n) else roundsTo w v n

/-- The 64 rounds, one after the other. -/
theorem compressRounds_eq_roundsTo (w : Schedule) (v : HashState) : compressRounds w v = roundsTo w v 64 := by
  have key : ∀ n (hn : n ≤ 64),
      Nat.fold n (fun i hi x => compressRound (Rom.k[i]'(by omega)) (w[i]'(by omega)) x) v = roundsTo w v n := by
    intro n
    induction n with
    | zero => intro _; rfl
    | succ n ih =>
      intro hn
      rw [Nat.fold_succ, ih (by omega), roundsTo, dif_pos (by omega)]
  unfold compressRounds
  exact key 64 (by omega)

/-- The block of a schedule, read back from it. -/
theorem expand_block (b : Block) : (Vector.ofFn fun i : Fin 16 => (expand b)[i.val]) = b := by
  ext i hi : 1
  rw [Vector.getElem_ofFn]
  exact expand_getElem_lt b i hi

/-- The word primitive bit by bit (R96). -/
theorem rotr_getLsbD (x : Word) (r i : Nat) (hr : r < 32) (hi : i < 32) :
    (rotr x r).getLsbD i = x.getLsbD ((i + r) % 32) := by
  rw [rotr_eq_rotateRight _ _ hr, BitVec.getLsbD_rotateRight, Nat.mod_eq_of_lt hr]
  by_cases h : i < 32 - r
  · simp [h]
    rw [Nat.mod_eq_of_lt (by omega), Nat.add_comm]
  · have : (i + r) % 32 = i - (32 - r) := by omega
    simp [this, hi, h]

/-- Each round constant from its place in the printed table (R34). -/
theorem Rom.k_getElem (i : Nat) (hi : i < 64) : Rom.k[i] = Rom.kRows[i / 4][i % 4] := by
  unfold Rom.k
  simp

theorem addState_getElem (x y : HashState) (j : Nat) (hj : j < 8) :
    (addState x y)[j] = add32 x[j] y[j] := by
  unfold addState
  simp

end Sys2Proof.Machine
end

