-- ==== Sys2Proof/Tests/Slice0.lean ====
section
/-! SUPPORT. Tests of the model: ill-formed operands refused, every constructor decoded from a word written out bit by
bit from spec/30_encoding.md R70 and R71, one or two small tests a command with the values of spec/95_test_vectors.md
(named in each docstring), and a witness for the hypotheses of every statement that has some. -/

open Sys2Proof Sys2Proof.Machine

namespace Sys2Proof.Tests

/-! ## WellFormed: an ill-formed operand for each check -/

theorem test_wellFormed_b2w_65_refused : (Instr.b2w 65).wellFormed = false := by decide
theorem test_wellFormed_b2w_255_refused : (Instr.b2w 255).wellFormed = false := by decide
theorem test_wellFormed_w2b_2_refused : (Instr.w2b 2).wellFormed = false := by decide
theorem test_wellFormed_legal : (Instr.b2w 64).wellFormed = true ∧ (Instr.b2w 3).wellFormed = true ∧
    (Instr.w2b 1).wellFormed = true := by decide

/-! ## Decode: `RSV` (16 bits), `ARG` (8 bits), `OPC` (8 bits) of R70, with the values of R71 and R72 -/

theorem test_decode_b2w : decode 0b0000000000000000_01000000_00000001 = .command (.b2w 64) := by decide
theorem test_decode_w2b : decode 0b0000000000000000_00000001_00000010 = .command (.w2b 1) := by decide
theorem test_decode_rotr : decode 0b0000000000000000_00000000_00000011 = .command .rotr := by decide
theorem test_decode_expand : decode 0b0000000000000000_00000000_00000100 = .command .expand := by decide
theorem test_decode_compress : decode 0b0000000000000000_00000000_00000101 = .command .compress := by decide
theorem test_decode_init : decode 0b0000000000000000_00000000_00000110 = .command .init := by decide
theorem test_decode_rst : decode 0b0000000000000000_00000000_11111111 = .command .rst := by decide

/-- V40: words that are no command. -/
theorem test_decode_illegal :
    decode 0x00010003 = .illegal .reserved ∧ decode 0x00000007 = .illegal .opcode ∧
    decode 0x00000103 = .illegal .operand ∧ decode 0x00004101 = .illegal .operand ∧
    decode 0x00000202 = .illegal .operand ∧ decode 0x000001FF = .illegal .operand := by decide

/-- The opcode table's words: 32 bits, and 16 where the table gives the operand word no more. -/
theorem test_decodeTableWord :
    decodeTableWord 32 0x00004001 = some (.b2w 64) ∧ decodeTableWord 16 0x00000102 = some (.w2b 1) ∧
    decodeTableWord 32 0x00000007 = none := by decide

/-- The word is run as the first instruction after reset. -/
theorem test_withFetchWord : ∃ t, step (State.reset.withFetchWord 32 0x00000006) = .next t ∧
    t.hv = true ∧ t.h = Rom.h0 ∧ t.responses = [.wr false] := ⟨_, rfl, by decide +kernel⟩

/-! ## Small states -/

/-- Reset, with one event for the host to issue. -/
def offered (e : HostEvent) : State := { State.reset with pending := [e] }

/-- `WR CMD, c`. -/
def cmd (c : Word) : HostEvent := .transaction (.wr 0x00 c)

/-- Reset, then a latched `E_LEN`. -/
def locked : State := State.reset.latch .eLen 0x00000301

/-- `BB` starts with eight bytes that name their place. -/
def someBytes : State :=
  { State.reset with bb := Vector.ofFn fun i : Fin 64 => if i.val < 8 then BitVec.ofNat 8 (0x11 * (i.val + 1)) else 0 }

/-- V20: the block of the message "abc". -/
def abcBlock : Block := #v[0x61626380, 0, 0, 0, 0, 0, 0, 0, 0, 0, 0, 0, 0, 0, 0, 0x00000018]

/-- V20, "Start". -/
def abcLoaded : State := { State.reset with m := abcBlock, mlen := 16 }

/-- V30, "Start": `H = H0`, `W` the Schedule of the "abc" block, `HV = WV = 1`. -/
def abcReady : State := { State.reset with h := Rom.h0, hv := true, w := expand abcBlock, wv := true }

/-- A state with a source HashState for `W2B H`. -/
def hashed : State := { State.reset with h := Rom.h0, hv := true }

/-! ## The commands -/

/-- V2, row `B2W 4`, stale tail: `M[1]` keeps its content. -/
theorem test_b2w_big_endian : ∃ t,
    exec (.b2w 4) { State.reset with
      bb := (((State.reset.bb.set 0 0x11).set 1 0x22).set 2 0x33).set 3 0x44
      m := State.reset.m.set 1 0x01234567, mlen := 2 } = .next t ∧
    t.m[0] = 0x11223344 ∧ t.m[1] = 0x01234567 ∧ t.mlen = 1 ∧ t.fault = false := ⟨_, rfl, by decide +kernel⟩

/-- V2, rows `B2W 3` and `B2W 65`: `E_LEN` with `EINFO = c`, and `E_OPC` from the decoder. -/
theorem test_b2w_faults :
    (∃ t, step (offered (cmd 0x00000301)) = .next t ∧ t.err = .eLen ∧ t.einfo = 0x00000301 ∧
      t.statusWord = 0x00000004 ∧ t.responses = [.wr true]) ∧
    ∃ t, step (offered (cmd 0x00004101)) = .next t ∧ t.err = .eOpc ∧ t.einfo = 0x00004101 ∧
      t.statusWord = 0x00000004 ∧ t.responses = [.wr true] :=
  ⟨⟨_, rfl, by decide +kernel⟩, ⟨_, rfl, by decide +kernel⟩⟩

/-- V3, row 2: `M[0] = 00000001`, `MLEN = 1`, bytes beyond keep `aa`. -/
theorem test_w2b_words : ∃ t,
    exec (.w2b 0) { State.reset with
      m := State.reset.m.set 0 0x00000001, mlen := 1, bb := Vector.replicate 64 0xAA } = .next t ∧
    t.bb.toList.take 8 = [0x00, 0x00, 0x00, 0x01, 0xAA, 0xAA, 0xAA, 0xAA] ∧ t.mlen = 1 := ⟨_, rfl, by decide +kernel⟩

/-- V3, rows `W2B H` on the reset state and after `INIT`. -/
theorem test_w2b_hash :
    (∃ t, exec (.w2b 1) State.reset = .next t ∧ t.err = .eSeq ∧ t.einfo = 0x00000102 ∧ t.statusWord = 0x00000004) ∧
    ∃ t, exec (.w2b 1) hashed = .next t ∧ t.statusWord = 0x00000001 ∧
      t.bb.toList.take 8 = [0x6a, 0x09, 0xe6, 0x67, 0xbb, 0x67, 0xae, 0x85] ∧ t.bb[31] = 0x19 ∧ t.bb[32] = 0 :=
  ⟨⟨_, rfl, by decide +kernel⟩, ⟨_, rfl, by decide +kernel⟩⟩

/-- V4: `OPA = 12345678`, amount -4. -/
theorem test_rotr_negative : ∃ t,
    exec .rotr { State.reset with opa := 0x12345678, amt := 0xFFFFFFFC } = .next t ∧ t.res = 0x23456781 :=
  ⟨_, rfl, by decide +kernel⟩

/-- V4: amounts 32 and 295; only `AMT[4:0]` counts. -/
theorem test_rotr_large :
    (∃ t, exec .rotr { State.reset with opa := 0x12345678, amt := 0x00000020 } = .next t ∧ t.res = 0x12345678) ∧
    ∃ t, exec .rotr { State.reset with opa := 0xDEADBEEF, amt := 0x00000127 } = .next t ∧ t.res = 0xDFBD5B7D :=
  ⟨⟨_, rfl, by decide +kernel⟩, ⟨_, rfl, by decide +kernel⟩⟩

/-- V20: the first computed words and the last ones; the flags after. -/
theorem test_expand_abc : ∃ t, exec .expand abcLoaded = .next t ∧
    t.w[0] = 0x61626380 ∧ t.w[15] = 0x00000018 ∧ t.w[16] = 0x61626380 ∧ t.w[17] = 0x000f0000 ∧
    t.w[18] = 0x7da86405 ∧ t.w[19] = 0x600003c6 ∧ t.w[31] = 0xd3b7973b ∧ t.w[63] = 0x12b1edeb ∧
    t.m = abcBlock ∧ t.statusWord = 0x00000002 := ⟨_, rfl, by decide +kernel⟩

/-- V41, rows "nothing" and `B2W 60`. -/
theorem test_expand_faults :
    (∃ t, exec .expand State.reset = .next t ∧ t.err = .eSeq ∧ t.einfo = 0x00000004) ∧
    ∃ t, exec .expand { State.reset with mlen := 15 } = .next t ∧ t.err = .eLen ∧ t.einfo = 0x00000004 ∧
      t.statusWord = 0x00000f04 :=
  ⟨⟨_, rfl, by decide +kernel⟩, ⟨_, rfl, by decide +kernel⟩⟩

/-- V30 and S6: the HashState after the "abc" block; `V` is the row of round 63. -/
theorem test_compress_abc : ∃ t, exec .compress abcReady = .next t ∧
    t.h = #v[0xba7816bf, 0x8f01cfea, 0x414140de, 0x5dae2223, 0xb00361a3, 0x96177a9c, 0xb410ff61, 0xf20015ad] ∧
    t.v = #v[0x506e3058, 0xd39a2165, 0x04d24d6c, 0xb85e2ce9, 0x5ef50f24, 0xfb121210, 0x948d25b6, 0x961f4894] ∧
    t.statusWord = 0x00000001 := ⟨_, rfl, by decide +kernel⟩

/-- V41, row "nothing" of `COMPRESS`. -/
theorem test_compress_fault : ∃ t, exec .compress State.reset = .next t ∧ t.err = .eSeq ∧ t.einfo = 0x00000005 :=
  ⟨_, rfl, by decide +kernel⟩

/-- R33, V40 row `INIT`. -/
theorem test_init : ∃ t, exec .init State.reset = .next t ∧
    t.h[0] = 0x6a09e667 ∧ t.h[7] = 0x5be0cd19 ∧ t.statusWord = 0x00000001 := ⟨_, rfl, by decide +kernel⟩

/-- V43, the end: `RST` while locked. -/
theorem test_rst_while_locked : ∃ t, step { locked with opa := 5, pending := [cmd 0x000000FF] } = .next t ∧
    t.sameInstance State.reset ∧ t.responses = [.wr false] := ⟨_, rfl, by unfold State.sameInstance; decide +kernel⟩

/-! ## The transactions -/

/-- V42: `WR H[0]`, `WR 0x3f` and `RD 0x07` are access faults with their information words. -/
theorem test_access_faults :
    (∃ t, step (offered (.transaction (.wr 0x08 0x12345678))) = .next t ∧ t.einfo = 0x00000108 ∧ t.err = .eAcc ∧
      t.h[0] = 0) ∧
    (∃ t, step (offered (.transaction (.wr 0x3F 1))) = .next t ∧ t.einfo = 0x0000013F) ∧
    ∃ t, step (offered (.transaction (.rd 0x07))) = .next t ∧ t.einfo = 0x00000007 ∧ t.responses = [.rd true 0] :=
  ⟨⟨_, rfl, by decide +kernel⟩, ⟨_, rfl, by decide +kernel⟩, ⟨_, rfl, by decide +kernel⟩⟩

/-- V42: the ROM reads its tables; V43: a locked core rejects `WR OPA` and a word that is not exactly `RST`. -/
theorem test_rom_and_locked :
    (∃ t, step (offered (.transaction (.rd 0x80))) = .next t ∧ t.responses = [.rd false 0x428a2f98]) ∧
    (∃ t, step { locked with pending := [.transaction (.wr 0x04 5)] } = .next t ∧ t.opa = 0 ∧ t.responses = [.wr true]) ∧
    ∃ t, step { locked with pending := [cmd 0x000001FF] } = .next t ∧ t.err = .eLen ∧ t.responses = [.wr true] :=
  ⟨⟨_, rfl, by decide +kernel⟩, ⟨_, rfl, by decide +kernel⟩, ⟨_, rfl, by decide +kernel⟩⟩

/-! ## The pure functions -/

/-- V1, rows of `12345678`. -/
theorem test_sigmas : ssig0 0x12345678 = 0xe7fce6ee ∧ ssig1 0x12345678 = 0xa1f78649 ∧
    bsig0 0x12345678 = 0x66146474 ∧ bsig1 0x12345678 = 0x3561abda ∧
    ch 0x510e527f 0x9b05688c 0x1f83d9ab = 0x1f85c98c ∧ maj 0x510e527f 0x9b05688c 0x1f83d9ab = 0x1b0758af := by
  decide +kernel

/-- R34: row and column of the printed table; the first place of its second row, and its last word. -/
theorem test_rom_rows : Rom.k[1] = 0x71374491 ∧ Rom.k[4] = 0x3956c25b ∧ Rom.k[63] = 0xc67178f2 := by
  decide +kernel

/-- S6: the digest of "abc". -/
theorem test_digest_abc : (digest [0x61, 0x62, 0x63]).map hexRender =
    some "ba7816bf8f01cfea414140de5dae2223b00361a396177a9cb410ff61f20015ad".toList := by decide +kernel

/-! ## Witnesses: every statement with hypotheses has states and operands that meet them, each clause at a boundary -/

/-- Shorthand of the witnesses: `WR a, d` and `RD a`. -/
def wr (a : Addr) (d : Word) : HostEvent := .transaction (.wr a d)

def rd (a : Addr) : HostEvent := .transaction (.rd a)

theorem witness_EncodeDecodeRoundTrip :
    (Instr.b2w 64).wellFormed = true ∧ (Instr.w2b 1).wellFormed = true ∧ Instr.rst.wellFormed = true ∧
    decode 0x00004001 = .command (.b2w 64) := by decide

theorem witness_IllegalCommandWordFaults :
    (offered (cmd 0x00010003)).fault = false ∧ (offered (cmd 0x00010003)).pending = [wr 0x00 0x00010003] ∧
    illegalWord 0x00010003 ∧ illegalWord 0x00000000 ∧ illegalWord 0x00000007 ∧ illegalWord 0x000000FE ∧
    illegalWord 0x00004101 ∧ illegalWord 0x00000202 ∧ illegalWord 0x00000103 ∧ illegalWord 0x000001FF := by
  refine ⟨rfl, rfl, ?_, ?_, ?_, ?_, ?_, ?_, ?_, ?_⟩ <;> (unfold illegalWord; decide)

theorem witness_B2wConvertsBytes :
    someBytes.fault = false ∧ 64 < (65 : BitVec 8).toNat ∧
    ((63 : BitVec 8).toNat ≤ 64 ∧ (63 : BitVec 8).toNat % 4 ≠ 0) ∧
    ((64 : BitVec 8).toNat ≤ 64 ∧ (64 : BitVec 8).toNat % 4 = 0 ∧ (15 : Fin 16).val < (64 : BitVec 8).toNat / 4) ∧
    ((0 : BitVec 8).toNat % 4 = 0 ∧ (0 : BitVec 8).toNat / 4 ≤ (0 : Fin 16).val) := by decide

theorem witness_W2bSerialisesWords :
    (1 < (2 : BitVec 8).toNat) ∧ (State.reset.fault = false ∧ State.reset.hv = false) ∧
    (hashed.fault = false ∧ hashed.hv = true) ∧
    ((31 : Fin 64).val = 4 * (7 : Fin 8).val + (3 : Fin 4).val ∧ 32 ≤ (32 : Fin 64).val) ∧
    ((15 : Fin 16).val < abcLoaded.mlen.toNat ∧ (63 : Fin 64).val = 4 * (15 : Fin 16).val + (3 : Fin 4).val ∧
      4 * State.reset.mlen.toNat ≤ (0 : Fin 64).val) := by decide +kernel

theorem witness_RotrRotatesRight :
    State.reset.fault = false ∧ opcField 0x00000103 = 0x03 ∧ (0x00000103 : Word) ≠ 0x00000003 ∧ 31 < 32 := by decide

theorem witness_ExpandBuildsSchedule :
    (opcField 0x00000104 = 0x04 ∧ (0x00000104 : Word) ≠ 0x00000004) ∧
    (State.reset.fault = false ∧ State.reset.mlen = 0) ∧
    ((15 : BitVec 5) ≠ 0 ∧ (15 : BitVec 5) ≠ 16) ∧ (abcLoaded.fault = false ∧ abcLoaded.mlen = 16) := by decide

theorem witness_InitCreatesHashState :
    State.reset.fault = false ∧ opcField 0x00000106 = 0x06 ∧ (0x00000106 : Word) ≠ 0x00000006 := by decide

theorem witness_CompressFoldsSchedule :
    (opcField 0x00000105 = 0x05 ∧ (0x00000105 : Word) ≠ 0x00000005) ∧
    (State.reset.fault = false ∧ State.reset.hv = false) ∧ (hashed.hv = true ∧ hashed.wv = false) ∧
    (abcReady.fault = false ∧ abcReady.hv = true ∧ abcReady.wv = true) :=
  ⟨by decide, ⟨rfl, rfl⟩, ⟨rfl, rfl⟩, rfl, rfl, rfl⟩

theorem witness_RstClearsState :
    (offered (cmd 0x000000FF)).pending = .transaction (.wr 0x00 0x000000FF) :: [] ∧
    (offered .resetInput).pending = .resetInput :: [] ∧
    (opcField 0x000001FF = 0xFF ∧ (0x000001FF : Word) ≠ 0x000000FF ∧ (0x000000FE : Word) ≠ 0x000000FF) ∧
    locked.fault = true ∧ (offered (cmd 0x000001FF)).fault = false ∧
    ∃ t, step { locked with pending := [cmd 0x000000FF] } = .next t ∧ t.fault = false :=
  ⟨rfl, rfl, by decide, rfl, rfl, _, rfl, by decide +kernel⟩

theorem witness_LockedCommandsRejected : locked.fault = true ∧ Instr.init ≠ .rst := by decide

theorem witness_RepeatedCommands :
    (Instr.rotr ≠ .expand ∧ Instr.rotr ≠ .compress ∧ ∃ t, exec .rotr State.reset = .next t) ∧
    (abcLoaded.fault = false ∧ abcLoaded.mlen = 16 ∧ ∃ t, exec .expand abcLoaded = .next t) ∧
    (abcReady.fault = false ∧ abcReady.hv = true ∧ abcReady.wv = true ∧ ∃ t, exec .compress abcReady = .next t) :=
  ⟨⟨by decide, by decide, exec_next _ _⟩, ⟨rfl, rfl, exec_next _ _⟩, rfl, rfl, rfl, exec_next _ _⟩

theorem witness_CommandsReachOnlyTheirRegisters :
    (∃ t, exec (.b2w 64) someBytes = .next t) ∧
    ¬ commandFootprint (.b2w 64) 0x1F ∧ ¬ commandFootprint (.b2w 64) 0x30 ∧ ¬ commandFootprint (.w2b 1) 0xBF ∧
    ¬ commandFootprint .rotr 0x07 ∧ ¬ commandFootprint .expand 0x3F ∧ ¬ commandFootprint .expand 0x80 ∧
    ¬ commandFootprint .compress 0x18 ∧ ¬ commandFootprint .init 0x10 := by
  refine ⟨exec_next _ _, ?_⟩
  simp [commandFootprint]

theorem witness_InitAndExpandCommute : abcLoaded.fault = false ∧ abcLoaded.mlen = 16 := ⟨rfl, rfl⟩

theorem witness_StepRunsDecodedCommand :
    (offered (cmd 0x00004001)).fault = false ∧
    (offered (cmd 0x00004001)).pending = .transaction (.wr 0x00 0x00004001) :: [] ∧
    decode 0x00004001 = .command (.b2w 64) := by decide

theorem witness_HostWriteOperation :
    (locked.fault = true ∧ (offered (wr 0x00 0x000000FF)).pending = .transaction (.wr 0x00 0x000000FF) :: []) ∧
    (¬ ((0x00 : Addr) = 0x00 ∧ (0x000000FE : Word) = 0x000000FF) ∧ ¬ ((0x01 : Addr) = 0x00 ∧ (0xFF : Word) = 0xFF)) ∧
    (offered (wr 0x00 0x00000006)).fault = false ∧ decode 0x00000006 = .command .init ∧
    decode 0x00000007 = .illegal .opcode ∧
    ((0xC0 : Addr).toNat = 0xC0 + (0 : Fin 64).val ∧ (0xFF : Addr).toNat = 0xC0 + (63 : Fin 64).val) ∧
    ((0x01 : Addr) ≠ 0x00 ∧ (0x03 : Addr) ≠ 0x04 ∧ (0x06 : Addr) ≠ 0x05 ∧ (0xBF : Addr).toNat < 0xC0) := by decide

theorem witness_HostReadOperation :
    (offered (rd 0x00)).pending = .transaction (.rd 0x00) :: [] ∧
    (0x30 ≤ (0x30 : Addr).toNat ∧ (0x30 : Addr).toNat ≤ 0x3F) ∧ (0x30 ≤ (0x3F : Addr).toNat ∧ (0x3F : Addr).toNat ≤ 0x3F) ∧
    locked.fault = true ∧ (offered (rd 0x07)).fault = false := by decide

theorem witness_AddressMapIsFixed :
    regAt 0x00 = some .cmd ∧ regAt 0x3F = none ∧ regAt 0x40 = some (.w 0) ∧ regAt 0xFF = some (.bb 63) := by decide

theorem witness_ByteBufferAccess :
    ({ State.reset with pending := [wr 0xFF 0xFFFFFF12, rd 0xFF] } : State).pending =
      .transaction (.wr (BitVec.ofNat 8 (0xC0 + (63 : Fin 64).val)) 0xFFFFFF12) ::
        .transaction (.rd (BitVec.ofNat 8 (0xC0 + (63 : Fin 64).val))) :: [] ∧
    State.reset.fault = false ∧ (0 : Fin 64) ≠ 63 := by decide

theorem witness_RegisterWriteFrame :
    (offered (wr 0xC0 1)).fault = false ∧ (offered (wr 0xC0 1)).pending = .transaction (.wr 0xC0 1) :: [] ∧
    0xC0 ≤ (0xC0 : Addr).toNat ∧ (0xC1 : Addr) ≠ 0xC0 ∧ (0x05 : Addr) ≠ 0x04 := by decide

/-- One step that changes each register of R20. -/
theorem witness_StateWrittenOnlyByItsOperations :
    (∃ t, step (offered (cmd 0x00000006)) = .next t ∧ t.h ≠ (offered (cmd 0x00000006)).h ∧ t.hv ≠ false) ∧
    (∃ t, step { abcReady with pending := [cmd 0x00000005] } = .next t ∧ t.v ≠ abcReady.v ∧ t.wv ≠ abcReady.wv) ∧
    (∃ t, step { someBytes with pending := [cmd 0x00004001] } = .next t ∧
      t.m ≠ someBytes.m ∧ t.mlen ≠ someBytes.mlen) ∧
    (∃ t, step { abcLoaded with pending := [cmd 0x00000004] } = .next t ∧ t.w ≠ abcLoaded.w) ∧
    (∃ t, step (offered (wr 0xFF 1)) = .next t ∧ t.bb ≠ State.reset.bb) ∧
    (∃ t, step (offered (wr 0x04 1)) = .next t ∧ t.opa ≠ 0) ∧
    (∃ t, step (offered (wr 0x05 1)) = .next t ∧ t.amt ≠ 0) ∧
    (∃ t, step { State.reset with opa := 1, pending := [cmd 0x00000003] } = .next t ∧ t.res ≠ 0) ∧
    ∃ t, step (offered (cmd 0x00000005)) = .next t ∧ (t.fault, t.err, t.einfo) ≠ (false, .noFault, 0) :=
  ⟨⟨_, rfl, by decide +kernel⟩, ⟨_, rfl, by decide +kernel⟩, ⟨_, rfl, by decide +kernel⟩, ⟨_, rfl, by decide +kernel⟩,
    ⟨_, rfl, by decide +kernel⟩, ⟨_, rfl, by decide +kernel⟩, ⟨_, rfl, by decide +kernel⟩, ⟨_, rfl, by decide +kernel⟩,
    ⟨_, rfl, by decide +kernel⟩⟩

theorem witness_FlagsSetAndClearedAsListed :
    (∃ t, step (offered (cmd 0x00000006)) = .next t ∧ t.hv = true) ∧
    (∃ t, step { hashed with pending := [cmd 0x000000FF] } = .next t ∧ hashed.hv = true ∧ t.hv = false) ∧
    (∃ t, step { abcLoaded with pending := [cmd 0x00000004] } = .next t ∧ abcLoaded.wv = false ∧ t.wv = true ∧
      t.fault = false) ∧
    (∃ t, step { abcReady with pending := [cmd 0x00000005] } = .next t ∧ abcReady.wv = true ∧ t.wv = false) ∧
    (∃ t, step { locked with pending := [.resetInput] } = .next t ∧ locked.fault = true ∧ t.fault = false) ∧
    (offered (cmd 0x00004001)).launches (.b2w 64) ∧ (64 : BitVec 8).toNat % 4 = 0 ∧
    (offered (cmd 0x00000004)).launches .expand :=
  ⟨⟨_, rfl, by decide +kernel⟩, ⟨_, rfl, by decide +kernel⟩, ⟨_, rfl, by decide +kernel⟩, ⟨_, rfl, by decide +kernel⟩,
    ⟨_, rfl, by decide +kernel⟩, ⟨_, _, rfl, by decide⟩, by decide, ⟨_, _, rfl, by decide⟩⟩

theorem witness_FaultEntryLatchesCause : State.reset.fault = false := rfl

/-- Every row of the table of R165, at its boundaries, and the values beside them that raise nothing. -/
theorem witness_CompleteCauseTable :
    State.reset.flagsSound ∧ State.reset.fault = false ∧ (∃ t, step (offered (rd 0x07)) = .next t) ∧
    causeTable State.reset (cmd 0x00000301) = some (.eLen, 0x00000301) ∧
    causeTable State.reset (cmd 0x00004001) = none ∧
    causeTable State.reset (cmd 0x00004101) = some (.eOpc, 0x00004101) ∧
    causeTable State.reset (cmd 0x00000102) = some (.eSeq, 0x00000102) ∧ causeTable hashed (cmd 0x00000102) = none ∧
    causeTable State.reset (cmd 0x00000004) = some (.eSeq, 0x00000004) ∧
    causeTable { State.reset with mlen := 15 } (cmd 0x00000004) = some (.eLen, 0x00000004) ∧
    causeTable abcLoaded (cmd 0x00000004) = none ∧
    causeTable hashed (cmd 0x00000005) = some (.eSeq, 0x00000005) ∧
    causeTable State.reset (cmd 0x00010003) = some (.eOpc, 0x00010003) ∧
    causeTable State.reset (cmd 0x00000007) = some (.eOpc, 0x00000007) ∧
    causeTable State.reset (wr 0xBF 0) = some (.eAcc, 0x000001BF) ∧ causeTable State.reset (wr 0xC0 0) = none ∧
    causeTable State.reset (rd 0x3F) = some (.eAcc, 0x0000003F) ∧ causeTable State.reset (rd 0x40) = none ∧
    causeTable State.reset (rd 0x00) = some (.eAcc, 0x00000000) ∧ causeTable State.reset .resetInput = none := by
  refine ⟨by unfold State.flagsSound; decide, rfl, ⟨_, rfl⟩, ?_⟩
  decide

theorem witness_FaultsArePrecise :
    (offered (cmd 0x00000301)).fault = false ∧ ∃ t, step (offered (cmd 0x00000301)) = .next t ∧ t.fault = true :=
  ⟨rfl, _, rfl, by decide +kernel⟩

theorem witness_FirstFaultWins : locked.fault = true ∧
    (∃ t, step { locked with pending := [wr 0x07 0] } = .next t ∧ t.fault = true) ∧
    (∃ t, step { locked with pending := [rd 0x07] } = .next t ∧ t.fault = true) ∧ locked.regRead 0x07 = none :=
  ⟨rfl, ⟨_, rfl, by decide +kernel⟩, ⟨_, rfl, by decide +kernel⟩, by decide⟩

theorem witness_OnlyResetUnlocks :
    locked.fault = true ∧ (∃ t, step { locked with pending := [cmd 0x000000FF] } = .next t ∧ t.fault = false) ∧
    ({ locked with pending := [.resetInput] } : State).pending = .resetInput :: [] ∧
    locked.regRead 0x03 = some 0x00000301 :=
  ⟨rfl, ⟨_, rfl, by decide +kernel⟩, rfl, by decide⟩

theorem witness_ResetInputEqualsRst :
    (∃ t, step { locked with pending := [.resetInput] } = .next t) ∧
    ∃ u, step { locked with pending := [.transaction (.wr 0x00 0x000000FF)] } = .next u := ⟨⟨_, rfl⟩, ⟨_, rfl⟩⟩

theorem witness_ResetState :
    (1 ≤ (0x01 : Addr).toNat ∧ (0x17 : Addr).toNat ≤ 0x17 ∧ (0x17 : Addr) ≠ 0x07) ∧
    (0x20 ≤ (0x20 : Addr).toNat ∧ (0x2F : Addr).toNat ≤ 0x2F) ∧
    (0x40 ≤ (0x40 : Addr).toNat ∧ (0x7F : Addr).toNat ≤ 0x7F) ∧ 0xC0 ≤ (0xFF : Addr).toNat := by decide

theorem witness_StepKeepsFlagsSound : locked.flagsSound ∧ abcLoaded.flagsSound ∧
    ∃ t, step { abcLoaded with pending := [cmd 0x00000004] } = .next t ∧ t.mlen = 0 :=
  ⟨by unfold State.flagsSound; decide, by unfold State.flagsSound; decide, _, rfl, by decide +kernel⟩

theorem witness_StepKeepsEinfoSound : locked.flagsSound ∧ locked.einfoSound ∧
    ∃ t, step { locked with pending := [rd 0x07] } = .next t :=
  ⟨by unfold State.flagsSound; decide, .inr ⟨3, by decide⟩, _, rfl⟩

theorem witness_StepKeepsScheduleSound : abcReady.scheduleSound ∧ abcReady.wv = true ∧
    ∃ t, step { abcReady with pending := [wr 0x04 1] } = .next t ∧ t.wv = true :=
  ⟨fun _ => congrArg expand (expand_block abcBlock).symm, rfl, _, rfl, rfl⟩

theorem witness_StepKeepsHashSound : abcReady.scheduleSound ∧ abcReady.hashSound ∧
    ∃ t, step { abcReady with pending := [cmd 0x00000005] } = .next t ∧ t.hv = true :=
  ⟨fun _ => congrArg expand (expand_block abcBlock).symm, ⟨fun _ => ⟨[], rfl⟩, by decide⟩, _, rfl, rfl⟩

/-- Two states that differ in every kind of stale content, and an `INIT` next. -/
theorem witness_StaleContentNeverConsumed :
    (offered (cmd 0x00000006)).sameValid { offered (cmd 0x00000006) with
      h := Vector.replicate 8 1, v := Vector.replicate 8 1, m := Vector.replicate 16 1, w := Vector.replicate 64 1 } ∧
    (∀ a rest, (offered (cmd 0x00000006)).pending ≠ .transaction (.rd a) :: rest) ∧
    ∃ t, step (offered (cmd 0x00000006)) = .next t := by
  refine ⟨⟨rfl, rfl, by decide, by decide, fun j h => absurd h (by simp [offered, State.reset])⟩, ?_, _, rfl⟩
  intro a rest h
  injection h with h
  cases h

theorem witness_RotateAmountIsSigned : State.reset.fault = false := rfl

theorem witness_RotateLaws : (0 : Int) ≤ 31 ∧ (31 : Int) < 32 := by decide

theorem witness_CodecRoundTrips :
    ([1, 2, 3, 4] : List Byte).length % 4 = 0 ∧ (abcLoaded.fault = false ∧ abcLoaded.mlen.toNat ≤ 16) ∧
    (15 : Fin 16).val < abcLoaded.mlen.toNat ∧ (64 : BitVec 8).toNat ≤ 64 ∧ (64 : BitVec 8).toNat % 4 = 0 := by decide

theorem witness_B2wRefinesBytesToWords :
    someBytes.fault = false ∧ (64 : BitVec 8).toNat ≤ 64 ∧
    (∃ t, exec (.b2w 64) someBytes = .next t ∧ t.fault = false) ∧
    ∃ t, exec (.b2w 63) someBytes = .next t ∧ t.fault = true :=
  ⟨rfl, by decide, ⟨_, rfl, by decide +kernel⟩, ⟨_, rfl, by decide +kernel⟩⟩

theorem witness_W2bRefinesWordsToBytes :
    abcReady.fault = false ∧ abcReady.hv = true ∧ ({ abcReady with mlen := 16 } : State).mlen.toNat ≤ 16 ∧
    (∃ t, exec (.w2b 0) { abcReady with mlen := 16 } = .next t) ∧
    ∃ u, exec (.w2b 1) { abcReady with mlen := 16 } = .next u :=
  ⟨rfl, rfl, by decide, exec_next _ _, exec_next _ _⟩

theorem witness_PadShape : (pad []).isSome = true ∧ (pad [1]).isSome = true ∧
    (54 : Nat) < 55 ∧ padZeros 0 = 55 ∧ padZeros 1 = 54 := by decide +kernel

theorem witness_ParseBlocksWordwise :
    (parseBlocks (List.replicate 64 1)).isSome = true ∧
    (List.replicate 64 (1 : Byte))[64 * 0 + 4 * (15 : Fin 16).val + 3]? = some 1 := by decide +kernel

theorem witness_BlockLoadsInAnyOrder :
    State.reset.fault = false ∧ (List.finRange 64).reverse.Perm (List.finRange 64) :=
  ⟨rfl, List.reverse_perm _⟩

theorem witness_RotriReturnsRotation :
    ({ State.reset with pending := (rotrI 5 (-2 ^ 31)).map HostEvent.transaction } : State).pending =
      (rotrI 5 (-2 ^ 31)).map HostEvent.transaction ++ [] ∧
    State.reset.fault = false ∧ (-2 ^ 31 : Int) ≤ -2 ^ 31 ∧ (2 ^ 31 - 1 : Int) ≤ 2 ^ 31 - 1 := by
  refine ⟨by simp, rfl, by decide, by decide⟩

theorem witness_DigestIsDefined : (digest [0x61, 0x62, 0x63]).isSome = true := by decide +kernel

/-- The empty message, both clauses: an unlocked core, and a locked one begun with `RST`. -/
theorem witness_HostProgramComputesDigest : ∃ p d, pad [] = some p ∧ digest [] = some d ∧
    ({ State.reset with pending := (digestTransactions p).map HostEvent.transaction } : State).fault = false ∧
    ({ State.reset with pending := (digestTransactions p).map HostEvent.transaction } : State).pending =
      (digestTransactions p).map HostEvent.transaction ++ [] ∧
    ({ locked with pending := (asm .rst :: digestTransactions p).map HostEvent.transaction } : State).pending =
      (asm .rst :: digestTransactions p).map HostEvent.transaction ++ [] :=
  ⟨_, _, rfl, rfl, rfl, (List.append_nil _).symm, (List.append_nil _).symm⟩

theorem witness_HexRenderingLossless : 'f' ∈ hexRender [0xFF] ∧ hexRender [0x00, 0x9A] = hexRender [0x00, 0x9A] := by
  decide

end Sys2Proof.Tests
end

/-! PROOFS for the scope family (spec 00_scope.md R7, 10_state.md R22): no step puts anything into `H` but the fold of
some sequence of blocks over the initial hash state. -/

namespace Sys2Proof.Machine

/-! ## The fold of blocks -/

/-- R140: no block processed yet. -/
@[simp] theorem chain_nil : chain [] = Rom.h0 := rfl

/-- R140: one more block at the end is one more compression of the state so far. -/
theorem chain_append_singleton (blocks : List Block) (b : Block) :
    chain (blocks ++ [b]) = compressBlock (chain blocks) (expand b) :=
  List.foldl_concat ..

/-! ## What keeps `State.hashSound` -/

/-- The invariant speaks of `H` and `HV` only. -/
theorem State.hashSound.congr {s t : State} (hs : s.hashSound) (hh : t.h = s.h) (hhv : t.hv = s.hv) :
    t.hashSound := by
  simpa only [State.hashSound, hh, hhv] using hs

/-- R38: reset leaves no HashState, and zeros where it stood. -/
theorem State.hashSound_resetCore (s : State) : s.resetCore.hashSound :=
  ⟨fun hv => absurd hv Bool.false_ne_true, fun _ => rfl⟩

/-- R131: `INIT` creates the state after no block. -/
theorem State.hashSound_createHash (s : State) : (s.createHash Rom.h0).hashSound :=
  ⟨fun _ => ⟨[], rfl⟩, fun hv => absurd hv.symm Bool.false_ne_true⟩

/-- R134: `COMPRESS` adds one block to those `H` is the fold of; it is the block whose Schedule `W` holds (R26). -/
theorem State.hashSound_foldHash {s : State} (hsched : s.scheduleSound) (hs : s.hashSound) (hhv : s.hv = true)
    (hwv : s.wv = true) (v : HashState) : (s.foldHash v (compressBlock s.h s.w)).hashSound := by
  obtain ⟨blocks, hblocks⟩ := hs.1 hhv
  refine ⟨fun _ => ⟨blocks ++ [Vector.ofFn fun i : Fin 16 => s.w[i.val]], ?_⟩, fun hv => ?_⟩
  · rw [chain_append_singleton, ← hblocks, ← hsched hwv, State.foldHash_h]
  · rw [State.foldHash_hv, hhv] at hv
    cases hv

/-- Every command keeps the invariant: `INIT`, `COMPRESS` and `RST` write `H`, the others leave `H` and `HV` alone. -/
theorem exec_keeps_hashSound {i : Instr} {s t : State} (hsched : s.scheduleSound) (hs : s.hashSound)
    (h : exec i s = .next t) : t.hashSound := by
  cases i with
  | b2w len =>
    obtain ⟨_, rfl⟩ | ⟨_, _, rfl⟩ | ⟨_, _, _, rfl⟩ | ⟨_, _, _, rfl⟩ := execB2w_cases h <;>
      exact hs.congr rfl rfl
  | w2b src =>
    obtain ⟨_, rfl⟩ | ⟨_, _, rfl⟩ | ⟨_, _, _, rfl⟩ | ⟨_, _, rfl⟩ | ⟨_, _, _, rfl⟩ := execW2b_cases h <;>
      exact hs.congr rfl rfl
  | rotr => obtain ⟨_, rfl⟩ | ⟨_, rfl⟩ := execRotr_cases h <;> exact hs.congr rfl rfl
  | expand =>
    obtain ⟨_, rfl⟩ | ⟨_, _, rfl⟩ | ⟨_, _, _, rfl⟩ | ⟨_, _, rfl⟩ := execExpand_cases h <;> exact hs.congr rfl rfl
  | compress =>
    obtain ⟨_, rfl⟩ | ⟨_, _, rfl⟩ | ⟨_, hhv, hwv, rfl⟩ := execCompress_cases h
    · exact hs
    · exact hs.congr rfl rfl
    · exact State.hashSound_foldHash hsched hs hhv hwv _
  | init =>
    obtain ⟨_, rfl⟩ | ⟨_, rfl⟩ := execInit_cases h
    · exact hs
    · exact s.hashSound_createHash
  | rst =>
    obtain rfl := execRst_cases h
    exact s.hashSound_resetCore

/-- Settles O39: of everything a step can make of a state, only a command and a reset touch `H` and `HV`. -/
theorem stepKeepsHashSound : Obligations.StepKeepsHashSound := by
  intro s u hsched hs h
  cases step_effect h with
  | idle => exact hs
  | resetInput rest => exact (s.issued rest).hashSound_resetCore
  | lockedRst rest => exact (s.issued rest).hashSound_resetCore.congr rfl rfl
  | command c i t rest _ _ _ ht => exact (exec_keeps_hashSound (s := s.issued rest) hsched hs ht).congr rfl rfl
  | badRead a rest => exact hs.congr (State.raise_h ..) (State.raise_hv ..)
  | read | lockedWrite | illegalWord | writeOpa | writeAmt | writeByte | badWrite => exact hs.congr rfl rfl

end Sys2Proof.Machine

/-! PROOFS for the state family: what every step keeps of the Schedule (10_state.md R26), of `MLEN` and of the fault
registers (R20, R28, R32). -/

namespace Sys2Proof.Machine

/-! ## What a command can do, as one relation -/

/-- Everything a command can make of a state, one constructor for each way it is performed (R92 to R150); `exec_effect`
proves it of every command. -/
inductive CommandEffect (s : State) : Instr → State → Prop where
  | locked (i : Instr) (hf : s.fault = true) : CommandEffect s i s
  | raised (i : Instr) (e : ErrCode) (hf : s.fault = false) (he : e ≠ .noFault) :
      CommandEffect s i (s.latch e (encode i))
  | loadWords (len : BitVec 8) (hf : s.fault = false) (hlen : len.toNat ≤ 64) :
      CommandEffect s (.b2w len) (s.loadWords (len.toNat / 4))
  | storeBytes (src : BitVec 8) (bb : Vector Byte 64) (hf : s.fault = false) :
      CommandEffect s (.w2b src) (s.storeBytes bb)
  | setRes (r : Word) (hf : s.fault = false) : CommandEffect s .rotr (s.setRes r)
  | loadSchedule (hf : s.fault = false) (hm : s.mlen = 16) :
      CommandEffect s .expand (s.loadSchedule (expand s.m))
  | foldHash (v h : HashState) (hf : s.fault = false) : CommandEffect s .compress (s.foldHash v h)
  | createHash (hf : s.fault = false) : CommandEffect s .init (s.createHash Rom.h0)
  | reset : CommandEffect s .rst s.resetCore

/-- The inversion of a command. -/
theorem exec_effect {i : Instr} {s t : State} (h : exec i s = .next t) : CommandEffect s i t := by
  cases i with
  | b2w len =>
    obtain ⟨hf, rfl⟩ | ⟨hf, _, rfl⟩ | ⟨hf, _, _, rfl⟩ | ⟨hf, hlen, _, rfl⟩ := execB2w_cases h
    · exact .locked _ hf
    · exact .raised _ .eOpc hf nofun
    · exact .raised _ .eLen hf nofun
    · exact .loadWords len hf hlen
  | w2b src =>
    obtain ⟨hf, rfl⟩ | ⟨hf, _, rfl⟩ | ⟨hf, _, _, rfl⟩ | ⟨hf, _, rfl⟩ | ⟨hf, _, _, rfl⟩ := execW2b_cases h
    · exact .locked _ hf
    · exact .raised _ .eOpc hf nofun
    · exact .raised _ .eSeq hf nofun
    · exact .storeBytes src _ hf
    · exact .storeBytes src _ hf
  | rotr =>
    obtain ⟨hf, rfl⟩ | ⟨hf, rfl⟩ := execRotr_cases h
    · exact .locked _ hf
    · exact .setRes _ hf
  | expand =>
    obtain ⟨hf, rfl⟩ | ⟨hf, _, rfl⟩ | ⟨hf, _, _, rfl⟩ | ⟨hf, hm, rfl⟩ := execExpand_cases h
    · exact .locked _ hf
    · exact .raised _ .eSeq hf nofun
    · exact .raised _ .eLen hf nofun
    · exact .loadSchedule hf hm
  | compress =>
    obtain ⟨hf, rfl⟩ | ⟨hf, _, rfl⟩ | ⟨hf, _, _, rfl⟩ := execCompress_cases h
    · exact .locked _ hf
    · exact .raised _ .eSeq hf nofun
    · exact .foldHash _ _ hf
  | init =>
    obtain ⟨hf, rfl⟩ | ⟨hf, rfl⟩ := execInit_cases h
    · exact .locked _ hf
    · exact .createHash hf
  | rst =>
    obtain rfl := execRst_cases h
    exact .reset

/-! ## `W` stays the Schedule of a Block while `WV = 1` -/

/-- The invariant speaks of `W` and `WV` only. -/
theorem State.scheduleSound.congr {s t : State} (hs : s.scheduleSound) (hw : t.w = s.w) (hwv : t.wv = s.wv) :
    t.scheduleSound := by
  simpa only [State.scheduleSound, hw, hwv] using hs

/-- While `WV = 0` the invariant asks nothing (R26). -/
theorem State.scheduleSound_of_not_wv {s : State} (hwv : s.wv = false) : s.scheduleSound :=
  fun h => absurd (hwv.symm.trans h) Bool.false_ne_true

/-- R122: `EXPAND` loads the whole Schedule of a Block, and the Block is its first sixteen words. -/
theorem State.scheduleSound_loadSchedule (s : State) (b : Block) : (s.loadSchedule (expand b)).scheduleSound :=
  fun _ => (congrArg expand (expand_block b)).symm

/-- Every command keeps the invariant: `EXPAND` makes a Schedule, `COMPRESS` and `RST` discard it, the others leave `W`
and `WV` alone. -/
theorem exec_keeps_scheduleSound {i : Instr} {s t : State} (hs : s.scheduleSound) (h : exec i s = .next t) :
    t.scheduleSound := by
  cases exec_effect h with
  | loadSchedule => exact s.scheduleSound_loadSchedule s.m
  | foldHash | reset => exact State.scheduleSound_of_not_wv rfl
  | locked | raised | loadWords | storeBytes | setRes | createHash => exact hs.congr rfl rfl

/-- Settles O38: of everything a step can make of a state, only a command and a reset touch `W` and `WV`. -/
theorem stepKeepsScheduleSound : Obligations.StepKeepsScheduleSound := by
  intro s u hs h
  cases step_effect h with
  | command c i t rest _ _ _ ht => exact (exec_keeps_scheduleSound (s := s.issued rest) hs ht).congr rfl rfl
  | resetInput | lockedRst => exact State.scheduleSound_of_not_wv rfl
  | badRead => exact hs.congr (State.raise_w ..) (State.raise_wv ..)
  | idle | read | lockedWrite | illegalWord | writeOpa | writeAmt | writeByte | badWrite => exact hs.congr rfl rfl

/-! ## `MLEN` stays within 0 to 16 and `FAULT` in step with `ERR` -/

/-- The invariant speaks of `MLEN`, `FAULT`, `ERR` and `EINFO` only. -/
theorem State.flagsSound.congr {s t : State} (hs : s.flagsSound) (hm : t.mlen.toNat ≤ 16)
    (hf : t.fault = s.fault) (he : t.err = s.err) (hi : t.einfo = s.einfo) : t.flagsSound := by
  refine ⟨hm, ?_⟩
  rw [hf, he, hi]
  exact hs.2

/-- What the host has still to issue is not its business. -/
theorem State.flagsSound.issued {s : State} (hs : s.flagsSound) (rest : List HostEvent) : (s.issued rest).flagsSound := hs

/-- Nor is what the host has received. -/
theorem State.flagsSound.respond {s : State} (hs : s.flagsSound) (r : Response) : (s.respond r).flagsSound := hs

/-- R38: reset leaves no word of `M` valid and no fault. -/
theorem State.flagsSound_resetCore (s : State) : s.resetCore.flagsSound :=
  ⟨Nat.zero_le _, by simp [State.reset], fun _ => rfl⟩

/-- R166: fault entry sets `FAULT` together with a fault code. -/
theorem State.flagsSound.latch {s : State} (hs : s.flagsSound) {e : ErrCode} (he : e ≠ .noFault) (info : Word) :
    (s.latch e info).flagsSound :=
  ⟨hs.1, by simpa using he, fun h => absurd h he⟩

/-- R168: so does a raise, which on a locked core does nothing. -/
theorem State.flagsSound.raise {s : State} (hs : s.flagsSound) {e : ErrCode} (he : e ≠ .noFault) (info : Word) :
    (s.raise e info).flagsSound := by
  obtain ⟨_, h⟩ | ⟨_, h⟩ := s.raise_cases e info <;> rw [h]
  · exact hs
  · exact hs.latch he info

/-- R92: `B2W len` makes at most sixteen words valid, since `len` is at most 64. -/
theorem State.loadWords_mlen_toNat (s : State) {n : Nat} (hn : n ≤ 16) : (s.loadWords n).mlen.toNat = n := by
  simp only [State.loadWords_mlen, BitVec.toNat_ofNat]
  omega

/-- Every command keeps the invariant: a fault latches a code, `B2W` and `EXPAND` set `MLEN` within its bound, `RST` clears
everything. -/
theorem exec_keeps_flagsSound {i : Instr} {s t : State} (hs : s.flagsSound) (h : exec i s = .next t) :
    t.flagsSound := by
  cases exec_effect h with
  | raised i e _ he => exact hs.latch he _
  | loadWords len _ hlen =>
    have hn : len.toNat / 4 ≤ 16 := by omega
    exact hs.congr ((s.loadWords_mlen_toNat hn).trans_le hn) rfl rfl rfl
  | loadSchedule => exact hs.congr (Nat.zero_le _) rfl rfl rfl
  | reset => exact s.flagsSound_resetCore
  | locked | storeBytes | setRes | foldHash | createHash => exact hs.congr hs.1 rfl rfl rfl

/-- Settles O36: a step raises a fault, runs a command, resets, or leaves `MLEN` and the fault registers alone. -/
theorem stepKeepsFlagsSound : Obligations.StepKeepsFlagsSound := by
  intro s u hs h
  cases step_effect h with
  | command c i t rest _ _ _ ht => exact (exec_keeps_flagsSound (hs.issued rest) ht).respond _
  | resetInput rest => exact (s.issued rest).flagsSound_resetCore
  | lockedRst rest => exact (s.issued rest).flagsSound_resetCore.respond _
  | badRead a rest => exact ((hs.issued rest).raise (by decide) _).respond _
  | illegalWord | badWrite => exact ((hs.issued _).latch (by decide) _).respond _
  | idle | read | lockedWrite | writeOpa | writeAmt | writeByte => exact hs.congr hs.1 rfl rfl rfl

/-- Settles O35: after reset no flag is set and `H` and `W` hold nothing valid. -/
theorem resetMeetsInvariants : Obligations.ResetMeetsInvariants :=
  ⟨State.reset.flagsSound_resetCore, rfl, State.scheduleSound_of_not_wv rfl, State.reset.hashSound_resetCore⟩

end Sys2Proof.Machine

/-! PROOFS for the state family: no command and no write consumes stale content (10_state.md R30). `State.sameValid` is
followed through the operations on State, the commands and the transactions, in the order they are defined. -/

namespace Sys2Proof.Machine

/-! ## The operations on State -/

/-- What `State.sameValid` asks, one equation a register. -/
theorem State.sameValid_iff {s t : State} : s.sameValid t ↔
    s.mlen = t.mlen ∧ s.bb = t.bb ∧ s.opa = t.opa ∧ s.amt = t.amt ∧ s.res = t.res ∧ s.hv = t.hv ∧ s.wv = t.wv ∧
    s.fault = t.fault ∧ s.err = t.err ∧ s.einfo = t.einfo ∧ s.pending = t.pending ∧ s.responses = t.responses ∧
    (s.hv = true → s.h = t.h) ∧ (s.wv = true → s.w = t.w) ∧
    ∀ j : Fin 16, j.val < s.mlen.toNat → s.m[j] = t.m[j] := by
  simp only [State.sameValid, Prod.mk.injEq, and_assoc]

/-- The bytes `W2B` writes depend on the serialised words only. -/
theorem serialise_congr {n count : Nat} {xs ys : Vector Word n} (bb : Vector Byte 64)
    (h : ∀ j (hj : j < n), j < count → xs[j] = ys[j]) : serialise xs count bb = serialise ys count bb := by
  ext i hi : 1
  rw [serialise_getElem, serialise_getElem]
  split
  next hlt => rw [h (i / 4) hlt.2 (by omega)]
  next => rfl

section Operations

variable {s t : State} (hst : s.sameValid t)
include hst

theorem State.sameValid.fault_eq : s.fault = t.fault := congrArg (·.1) hst.2.1

theorem State.sameValid.pending_eq : s.pending = t.pending := congrArg (·.2.2.2.1) hst.2.1

/-- A full word buffer has no stale word (R25). -/
theorem State.sameValid.m_eq_of_full (hm : s.mlen = 16) : s.m = t.m := by
  obtain ⟨_, _, _, _, hwords⟩ := hst
  ext j hj : 1
  exact hwords ⟨j, hj⟩ (by rw [hm]; exact hj)

theorem State.sameValid.issued (rest : List HostEvent) : (s.issued rest).sameValid (t.issued rest) := by
  simp_all [State.sameValid]

theorem State.sameValid.respond (r : Response) : (s.respond r).sameValid (t.respond r) := by
  simp_all [State.sameValid]

theorem State.sameValid.latch (e : ErrCode) (info : Word) : (s.latch e info).sameValid (t.latch e info) := by
  simp_all [State.sameValid]

theorem State.sameValid.resetCore : s.resetCore.sameValid t.resetCore := by
  simp_all [State.sameValid]

theorem State.sameValid.setOpa (d : Word) : (s.setOpa d).sameValid (t.setOpa d) := by
  simp_all [State.sameValid]

theorem State.sameValid.setAmt (d : Word) : (s.setAmt d).sameValid (t.setAmt d) := by
  simp_all [State.sameValid]

theorem State.sameValid.setByte (i : Fin 64) (d : Word) : (s.setByte i d).sameValid (t.setByte i d) := by
  simp_all [State.sameValid]

theorem State.sameValid.setRes (r : Word) : (s.setRes r).sameValid (t.setRes r) := by
  simp_all [State.sameValid]

theorem State.sameValid.storeBytes (bb : Vector Byte 64) : (s.storeBytes bb).sameValid (t.storeBytes bb) := by
  simp_all [State.sameValid]

theorem State.sameValid.createHash (h : HashState) : (s.createHash h).sameValid (t.createHash h) := by
  simp_all [State.sameValid]

theorem State.sameValid.loadSchedule (w : Schedule) : (s.loadSchedule w).sameValid (t.loadSchedule w) := by
  simp_all [State.sameValid]

/-- `V` is read by nothing, so it may differ after the fold too (R23). -/
theorem State.sameValid.foldHash (v v' h : HashState) : (s.foldHash v h).sameValid (t.foldHash v' h) := by
  simp_all [State.sameValid]

/-- The words `B2W` makes valid come from `BB`, which has no stale content. -/
theorem State.sameValid.loadWords (n : Nat) : (s.loadWords n).sameValid (t.loadWords n) := by
  have hbb : s.bb = t.bb := congrArg (·.2.1) hst.1
  have hwords : ∀ j : Fin 16, j.val < (BitVec.ofNat 5 n).toNat → (s.loadedWords n)[j] = (t.loadedWords n)[j] := by
    intro j hj
    have hjn : j.val < n := hj.trans_le (by simp [Nat.mod_le])
    simp only [Fin.getElem_fin, State.loadedWords_getElem, if_pos hjn]
    exact s.bbWord_congr t hbb j
  simp_all [State.sameValid]

theorem State.sameValid.raise (e : ErrCode) (info : Word) : (s.raise e info).sameValid (t.raise e info) := by
  have hf := hst.fault_eq
  obtain ⟨hs, h⟩ | ⟨hs, h⟩ := s.raise_cases e info
  · rwa [h, State.raise_of_locked _ _ _ (hf ▸ hs)]
  · rw [h, State.raise_of_unlocked _ _ _ (hf ▸ hs)]
    exact hst.latch e info

/-- Both cores take the same side of the lock check. -/
theorem State.sameValid.ifUnlocked {s' t' : State} (h : s'.sameValid t') :
    (s.ifUnlocked s').sameValid (t.ifUnlocked t') := by
  have hf := hst.fault_eq
  obtain ⟨hs, e⟩ | ⟨hs, e⟩ := s.ifUnlocked_cases s'
  · rwa [e, State.ifUnlocked_of_locked _ _ (hf ▸ hs)]
  · rwa [e, State.ifUnlocked_of_unlocked _ _ (hf ▸ hs)]

end Operations

/-- Two cores that take the same branch need agree on the branch taken only. -/
theorem State.sameValid.ite {p : Prop} [Decidable p] {s s' t t' : State} (h : p → s.sameValid t)
    (h' : ¬ p → s'.sameValid t') : (if p then s else s').sameValid (if p then t else t') := by
  split
  next hp => exact h hp
  next hp => exact h' hp

/-! ## The commands and the transactions -/

/-- Both sides answer a next state, and these agree on everything valid. -/
def SameOutcome (x y : Host.Outcome State Fault Refusal) : Prop :=
  ∃ s t : State, x = .next s ∧ y = .next t ∧ s.sameValid t

theorem SameOutcome.next {s t : State} (h : s.sameValid t) : SameOutcome (.next s) (.next t) :=
  ⟨s, t, rfl, rfl, h⟩

section Transactions

variable {s t : State} (hst : s.sameValid t)
include hst

/-- R30: `EXPAND`, `COMPRESS` and `W2B H` check first that what they read is valid, and `W2B M` reads the first `MLEN`
words only. -/
theorem exec_sameOutcome (i : Instr) : SameOutcome (exec i s) (exec i t) := by
  obtain ⟨hm, hbb, hopa, hamt, _, hhv, hwv, _, _, _, _, _, hh, hw, hwords⟩ := State.sameValid_iff.1 hst
  cases i with
  | b2w len =>
    exact .next <| hst.ifUnlocked <| .ite (fun _ => hst.raise ..) fun _ =>
      .ite (fun _ => hst.raise ..) fun _ => hst.loadWords _
  | w2b src =>
    refine .next <| hst.ifUnlocked <| .ite (fun _ => hst.raise ..) fun hsrc => ?_
    rw [← hhv, ← hm, ← hbb]
    refine .ite (fun _ => hst.raise ..) fun hvalid => .ite (fun _ => ?_) fun hsrc0 => ?_
    · rw [serialise_congr s.bb fun j hj hlt => hwords ⟨j, hj⟩ hlt]
      exact hst.storeBytes _
    · have hsrc1 : src.toNat = 1 := by omega
      rw [← hh (by simpa [hsrc1] using hvalid)]
      exact hst.storeBytes _
  | rotr =>
    refine .next <| hst.ifUnlocked ?_
    rw [← hopa, ← hamt]
    exact hst.setRes _
  | expand =>
    refine .next <| hst.ifUnlocked ?_
    rw [← hm]
    refine .ite (fun _ => hst.raise ..) fun _ => .ite (fun _ => hst.raise ..) fun hfull => ?_
    rw [← hst.m_eq_of_full (not_not.mp hfull)]
    exact hst.loadSchedule _
  | compress =>
    refine .next <| hst.ifUnlocked ?_
    rw [← hhv, ← hwv]
    refine .ite (fun _ => hst.raise ..) fun hvalid => ?_
    simp only [not_or, Bool.not_eq_false] at hvalid
    rw [← hh hvalid.1, ← hw hvalid.2]
    exact hst.foldHash ..
  | init => exact .next <| hst.ifUnlocked <| hst.createHash _
  | rst => exact .next hst.resetCore

theorem launch_sameOutcome (i : Instr) : SameOutcome (launch i s) (launch i t) := by
  obtain ⟨s', t', hs, ht, h⟩ := exec_sameOutcome hst i
  rw [launch_of_exec hs, launch_of_exec ht, h.fault_eq]
  exact .next (h.respond _)

theorem writeCommand_sameOutcome (c : Word) : SameOutcome (writeCommand c s) (writeCommand c t) := by
  unfold writeCommand
  cases decode c with
  | command i => exact launch_sameOutcome hst i
  | illegal why => exact .next ((hst.raise ..).respond _)

theorem rejectWrite_sameOutcome (a : Addr) : SameOutcome (rejectWrite a s) (rejectWrite a t) :=
  .next ((hst.raise ..).respond _)

theorem writeReg_sameOutcome (a : Addr) (d : Word) : SameOutcome (writeReg a d s) (writeReg a d t) := by
  unfold writeReg
  cases regAt a with
  | none => exact rejectWrite_sameOutcome hst a
  | some r =>
    cases r with
    | cmd => exact writeCommand_sameOutcome hst d
    | opa => exact .next ((hst.setOpa d).respond _)
    | amt => exact .next ((hst.setAmt d).respond _)
    | bb i => exact .next ((hst.setByte i d).respond _)
    | status | err | einfo | res | h | v | h0 | m | w | k => exact rejectWrite_sameOutcome hst a

theorem execWr_sameOutcome (a : Addr) (d : Word) : SameOutcome (execWr a d s) (execWr a d t) := by
  unfold execWr
  rw [← hst.fault_eq]
  split
  · split
    · exact launch_sameOutcome hst .rst
    · exact .next (hst.respond _)
  · exact writeReg_sameOutcome hst a d

/-- A read is the one event left out: it returns stored content, stale or not (R30). -/
theorem perform_sameOutcome {e : HostEvent} (he : ∀ a, e ≠ .transaction (.rd a)) :
    SameOutcome (perform e s) (perform e t) := by
  match e with
  | .transaction (.wr a d) => exact execWr_sameOutcome hst a d
  | .transaction (.rd a) => exact absurd rfl (he a)
  | .resetInput => exact .next hst.resetCore

theorem step_sameOutcome (hread : ∀ a rest, s.pending ≠ .transaction (.rd a) :: rest) :
    SameOutcome (step s) (step t) := by
  have hpt := hst.pending_eq
  cases hp : s.pending with
  | nil =>
    rw [step_of_idle s hp, step_of_idle t (hpt ▸ hp)]
    exact .next hst
  | cons e rest =>
    rw [step_of_pending s e rest hp, step_of_pending t e rest (hpt ▸ hp)]
    exact perform_sameOutcome (hst.issued rest) fun a he => hread a rest (he ▸ hp)

end Transactions

/-- Settles O40: whatever an event reads of `H`, `W` and `M`, it has checked to be valid, so two states that differ in
stale content only go the same way. -/
theorem staleContentNeverConsumed : Obligations.StaleContentNeverConsumed := by
  intro s t s' t' hst hread hs ht
  obtain ⟨u, v, hu, hv, huv⟩ := step_sameOutcome hst hread
  obtain rfl : s' = u := by injection hs.symm.trans hu
  obtain rfl : t' = v := by injection ht.symm.trans hv
  exact huv

end Sys2Proof.Machine
/-! PROOFS for the state family: which operation writes which register (10_state.md R20), what sets and clears each flag
(R28), the layout of `STATUS` (R31) and the contents of the ROM (R33, R34). -/

namespace Sys2Proof.Machine

/-! ## Who writes which register -/

theorem State.resets_of_input {s : State} {rest : List HostEvent} (hp : s.pending = .resetInput :: rest) : s.resets :=
  .inl ⟨rest, hp⟩

/-- `0x000000FF` is the command word of `RST`. -/
theorem State.resets_of_rst {s : State} {rest : List HostEvent}
    (hp : s.pending = .transaction (.wr 0x00 0x000000FF) :: rest) : s.resets :=
  .inr ⟨_, rest, hp, by decide⟩

/-- Settles O26: of everything a step can make of a state, each part is compared with the state before, register by
register; what differs is what the operation of that part writes. -/
theorem stateWrittenOnlyByItsOperations : Obligations.StateWrittenOnlyByItsOperations := by
  intro s u h
  by_cases hreset : s.resets
  · simp [hreset]
  simp only [hreset, or_false]
  cases step_effect h with
  | resetInput rest hp => exact absurd (State.resets_of_input hp) hreset
  | lockedRst rest hp => exact absurd (State.resets_of_rst hp) hreset
  | idle | read | lockedWrite => simp
  | badRead a rest =>
    obtain ⟨_, e⟩ | ⟨hf, e⟩ := (s.issued rest).raise_cases .eAcc (accessInfo false a)
    · simp [e]
    · have hf' : s.fault = false := hf
      simp [hf']
  | illegalWord _ _ _ _ hf | badWrite _ _ _ _ hf => simp [hf]
  | writeOpa d rest hp =>
    have hw : s.writes 4#8 := ⟨d, rest, hp⟩
    simp [hw]
  | writeAmt d rest hp =>
    have hw : s.writes 5#8 := ⟨d, rest, hp⟩
    simp [hw]
  | writeByte i d rest hp =>
    have hw : ∃ a : Addr, 0xC0 ≤ a.toNat ∧ s.writes a :=
      ⟨_, by simp only [BitVec.toNat_ofNat]; omega, d, rest, hp⟩
    simp [hw]
  | command c i t rest hp hf hd ht =>
    have hl : s.launches i := ⟨c, rest, hp, hd⟩
    cases exec_effect ht with
    | locked => simp
    | raised => simp [hf]
    | reset => exact absurd (.inr hl) hreset
    | loadWords len =>
      have hl' : ∃ len, s.launches (.b2w len) := ⟨len, hl⟩
      simp [hl']
    | storeBytes src =>
      have hl' : ∃ src, s.launches (.w2b src) := ⟨src, hl⟩
      simp [hl']
    | setRes | loadSchedule | foldHash | createHash => simp [hl]

/-! ## What sets and clears each flag -/

/-- After a reset no flag is set; any other step sets `HV` by `INIT`, sets `WV` by `EXPAND` and clears it by `COMPRESS`,
and never clears `FAULT` (R28). -/
theorem step_flags {s t : State} (h : step s = .next t) :
    (s.resets ∧ t.hv = false ∧ t.wv = false ∧ t.fault = false) ∨
    (t.hv = s.hv ∨ s.launches .init ∧ t.hv = true) ∧
    (t.wv = s.wv ∨ s.launches .expand ∧ t.wv = true ∨ s.launches .compress ∧ t.wv = false) ∧
    (s.fault = true → t.fault = true) := by
  cases step_effect h with
  | resetInput rest hp => exact .inl ⟨State.resets_of_input hp, rfl, rfl, rfl⟩
  | lockedRst rest hp => exact .inl ⟨State.resets_of_rst hp, rfl, rfl, rfl⟩
  | idle | read | badRead | lockedWrite | illegalWord | writeOpa | writeAmt | writeByte | badWrite => simp
  | command c i t rest hp _ hd ht =>
    have hl : s.launches i := ⟨c, rest, hp, hd⟩
    cases exec_effect ht with
    | reset => exact .inl ⟨.inr hl, rfl, rfl, rfl⟩
    | locked | raised | loadWords | storeBytes | setRes => simp
    | loadSchedule | foldHash | createHash => simp [hl]

theorem noOperand_eq_command {arg : BitVec 8} {i j : Instr} (h : noOperand arg i = .command j) : j = i := by
  unfold noOperand at h
  split at h <;> cases h
  rfl

/-- R73: the word of a command that decodes has a legal operand. -/
theorem decode_wellFormed {c : Word} {i : Instr} (h : decode c = .command i) : i.wellFormed = true := by
  unfold decode at h
  dsimp only at h
  split at h
  · cases h
  split at h
  · split at h <;> cases h
    exact decide_eq_true (Nat.le_of_not_lt ‹_›)
  split at h
  · split at h <;> cases h
    exact decide_eq_true (Nat.le_of_not_lt ‹_›)
  · iterate 5
      split at h
      · rw [noOperand_eq_command h]; rfl
    cases h

/-- R151: on an unlocked core a command word that decodes launches its command. -/
theorem execWr_cmd {s : State} {c : Word} {i : Instr} (hf : s.fault = false) (hd : decode c = .command i) :
    execWr 0x00 c s = launch i s := by
  have hcmd : regAt 0x00 = some .cmd := regAt_addr .cmd
  rw [execWr, if_neg (by simp [hf]), writeReg, hcmd]
  simp only [writeCommand, hd]

/-- On an unlocked core a step performs the command launched; its operand is legal. -/
theorem step_of_launches {s t : State} {i : Instr} (hf : s.fault = false) (hl : s.launches i)
    (h : step s = .next t) : i.wellFormed = true ∧
      ∃ rest u, exec i (s.issued rest) = .next u ∧ t = u.respond (.wr u.fault) := by
  obtain ⟨c, rest, hp, hd⟩ := hl
  rw [step_of_pending s _ rest hp, perform, execWr_cmd (s := s.issued rest) hf hd] at h
  exact ⟨decode_wellFormed hd, rest, launch_cases h⟩

/-- R92: a whole number of words loaded is the number of valid words. -/
theorem mlen_of_launches_b2w {s t : State} {len : BitVec 8} (h : step s = .next t) (hf : s.fault = false)
    (hl : s.launches (.b2w len)) (h4 : len.toNat % 4 = 0) : t.mlen.toNat = len.toNat / 4 := by
  obtain ⟨hwf, rest, u, hu, rfl⟩ := step_of_launches hf hl h
  have hlen : len.toNat ≤ 64 := of_decide_eq_true hwf
  obtain ⟨hf', _⟩ | ⟨_, h64, _⟩ | ⟨_, _, h4', _⟩ | ⟨_, _, _, rfl⟩ := execB2w_cases hu
  · exact absurd (hf.symm.trans hf') Bool.false_ne_true
  · omega
  · exact absurd h4 h4'
  · exact (s.issued rest).loadWords_mlen_toNat (by omega)

/-- R122: an `EXPAND` that raises no fault consumes the Block. -/
theorem mlen_of_launches_expand {s t : State} (h : step s = .next t) (hf : s.fault = false)
    (hl : s.launches .expand) (hft : t.fault = false) : t.mlen = 0 := by
  obtain ⟨_, rest, u, hu, rfl⟩ := step_of_launches hf hl h
  obtain ⟨hf', _⟩ | ⟨_, hm, rfl⟩ | ⟨_, _, _, rfl⟩ | ⟨_, _, rfl⟩ := execExpand_cases hu
  · exact absurd (hf.symm.trans hf') Bool.false_ne_true
  · exact hm
  · exact absurd hft.symm Bool.false_ne_true
  · rfl

/-- Settles O27: the flags by `step_flags`, `MLEN` by what the two commands that set it do. -/
theorem flagsSetAndClearedAsListed : Obligations.FlagsSetAndClearedAsListed := by
  intro s t h
  have hflags := step_flags h
  refine ⟨?_, ?_, ?_, ?_, ?_, fun len => mlen_of_launches_b2w h, mlen_of_launches_expand h⟩
  all_goals grind

/-! ## The ROM and `STATUS` -/

/-- No register shows what the host has still to issue. -/
@[simp] theorem State.regRead_issued (s : State) (rest : List HostEvent) (a : Addr) :
    (s.issued rest).regRead a = s.regRead a := by
  unfold State.regRead
  cases regAt a with
  | none => rfl
  | some r => cases r <;> rfl

/-- R152: what a readable address holds is returned, locked or not. -/
theorem State.readsAs_of_regRead {s : State} {a : Addr} {d : Word} (h : s.regRead a = some d) : s.readsAs a d := by
  intro rest
  have hr : (s.issued rest).regRead a = some d := (s.regRead_issued rest a).trans h
  change execRd a (s.issued rest) = _
  simp only [execRd, hr]
  rfl

/-- A register is read at its own address. -/
theorem State.readsAs_addr {s : State} {r : Reg} {d : Word} (h : s.readReg r = some d) : s.readsAs r.addr d :=
  State.readsAs_of_regRead ((s.regRead_addr r).trans h)

/-- Settles O21: `H0` and `K` are constants that a read finds whatever the state holds (R35). -/
theorem romHoldsItsTables : Obligations.RomHoldsItsTables := by
  refine fun s => ⟨fun i => ?_, fun row column => ?_⟩
  · have hread := State.readsAs_addr (s := s) (r := .h0 i) rfl
    rwa [Rom.h0] at hread
  · have hi : 4 * row.val + column.val < 64 := by omega
    have hk : Rom.k[4 * row.val + column.val] = Rom.kRows[row][column] := by
      rw [Rom.k_getElem]
      congr 2 <;> omega
    have hread := State.readsAs_addr (s := s) (r := .k ⟨4 * row.val + column.val, hi⟩) (congrArg some hk)
    rwa [Rom.kRows, Reg.addr, ← Nat.add_assoc] at hread

/-- R31 above the flags: `MLEN` from bit 8 on, zero elsewhere (`State.statusWord_flags` says bits 0 to 2). -/
theorem State.statusWord_getLsbD_of_three_le (s : State) {i : Nat} (hi : 3 ≤ i) :
    s.statusWord.getLsbD i = (decide (8 ≤ i) && s.mlen.getLsbD (i - 8)) := by
  simp only [State.statusWord, BitVec.getLsbD_append]
  rw [if_neg (by omega), if_neg (by omega), if_neg (by omega)]
  split
  next h5 =>
    have h8 : ¬ 8 ≤ i := by omega
    simp [h8]
  next h5 =>
    have h8 : 8 ≤ i := by omega
    have e : i - 1 - 1 - 1 - 5 = i - 8 := by omega
    rw [e]
    split
    next => simp [h8]
    next hlt => simp [BitVec.getLsbD_of_ge _ _ (Nat.le_of_not_lt hlt)]

/-- A field of one bit is that bit. -/
theorem extractLsb'_one_eq_ofBool {n : Nat} {x : BitVec n} {i : Nat} {b : Bool} (h : x.getLsbD i = b) :
    x.extractLsb' i 1 = BitVec.ofBool b := by
  ext j hj
  obtain rfl : j = 0 := by omega
  simp [h]

/-- Settles O25: the flags are the three low bits, the other fields lie above them. -/
theorem statusLayout : Obligations.StatusLayout := by
  intro s
  obtain ⟨h0, h1, h2⟩ := s.statusWord_flags
  refine ⟨s.regRead_addr .status, extractLsb'_one_eq_ofBool h0, extractLsb'_one_eq_ofBool h1,
    extractLsb'_one_eq_ofBool h2, ?_, ?_, ?_, rfl⟩ <;> ext i hi <;>
    rw [BitVec.getElem_extractLsb', s.statusWord_getLsbD_of_three_le (by omega)]
  · have h8 : ¬ 8 ≤ 3 + i := by omega
    simp [h8]
  · simp [hi]
  · simp [BitVec.getLsbD_of_ge s.mlen (13 + i - 8) (by omega)]

/-! ## Where the ROM's words come from -/

/-- The first 64 primes. -/
def firstPrimes : Vector Nat 64 :=
  #v[2, 3, 5, 7, 11, 13, 17, 19, 23, 29, 31, 37, 41, 43, 47, 53, 59, 61, 67, 71, 73, 79, 83, 89, 97, 101, 103, 107, 109,
     113, 127, 131, 137, 139, 149, 151, 157, 163, 167, 173, 179, 181, 191, 193, 197, 199, 211, 223, 227, 229, 233, 239,
     241, 251, 257, 263, 269, 271, 277, 281, 283, 293, 307, 311]

/-- Each is a prime with as many primes below it as stand before it in the list, so it is the prime of that number.
(`Nat.decidablePrime'` is the library's faster test, by the least factor.) -/
theorem nth_prime_eq_firstPrimes (i : Fin 64) : Nat.nth Nat.Prime i.val = firstPrimes[i] := by
  have key : ∀ i : Fin 64, (2 ≤ firstPrimes[i] ∧ firstPrimes[i].minFac = firstPrimes[i]) ∧
      @Nat.count Nat.Prime Nat.decidablePrime' firstPrimes[i] = i.val := by decide +kernel
  obtain ⟨hprime, hcount⟩ := key i
  calc Nat.nth Nat.Prime i.val
      = Nat.nth Nat.Prime (@Nat.count Nat.Prime Nat.decidablePrime' firstPrimes[i]) := by rw [hcount]
    _ = firstPrimes[i] := @Nat.nth_count _ Nat.decidablePrime' _ (Nat.prime_def_minFac.mpr hprime)

/-- R33: the words of `H0` are the cut square roots less their integer parts. -/
theorem Rom.h0_bounds : ∀ i : Fin 8,
    (firstPrimes[i].sqrt * 2 ^ 32 + Rom.h0[i].toNat) ^ 2 ≤ firstPrimes[i] * 2 ^ 64 ∧
    firstPrimes[i] * 2 ^ 64 < (firstPrimes[i].sqrt * 2 ^ 32 + Rom.h0[i].toNat + 1) ^ 2 := by decide +kernel

/-- R34: the words of `K` are the cut cube roots less their integer parts. -/
theorem Rom.k_bounds : ∀ i : Fin 64,
    (Nat.nthRoot 3 firstPrimes[i] * 2 ^ 32 + Rom.k[i].toNat) ^ 3 ≤ firstPrimes[i] * 2 ^ 96 ∧
    firstPrimes[i] * 2 ^ 96 < (Nat.nthRoot 3 firstPrimes[i] * 2 ^ 32 + Rom.k[i].toNat + 1) ^ 3 := by decide +kernel

/-- Settles O56: the bounds of each of the 72 words, evaluated at the prime the list gives for its place. -/
theorem romWordsAreRootFractions : Obligations.RomWordsAreRootFractions := by
  refine ⟨fun i => ⟨firstPrimes[i].sqrt, ?_⟩, fun i => ⟨Nat.nthRoot 3 firstPrimes[i], ?_⟩⟩
  · rw [nth_prime_eq_firstPrimes ⟨i.val, by omega⟩]
    exact Rom.h0_bounds i
  · rw [nth_prime_eq_firstPrimes i]
    exact Rom.k_bounds i

end Sys2Proof.Machine

/-! PROOFS for the memory family: the address map (spec 20_memory.md R51), what commands reach and repeat (R54, R60, R61),
the host's register writes (R53, R56, R63), and interleaved transactions of several cores (R65). -/

namespace Sys2Proof.Machine

/-! ## Steps and runs -/

/-- R160, R205: nothing the host can do stops the machine. -/
theorem step_next (s : State) : ∃ t, step s = .next t := by
  cases hp : s.pending with
  | nil => exact ⟨s, step_of_idle s hp⟩
  | cons e rest =>
    rw [step_of_pending s e rest hp]
    exact perform_next e _

@[simp] theorem core_run_zero (s : State) : core.run 0 s = .next s := rfl

theorem core_run_succ {s t : State} (h : step s = .next t) (n : Nat) : core.run (n + 1) s = core.run n t := by
  have hcore : core.step s = .next t := h
  simp only [Host.Core.run, hcore]

/-- A run that reaches `t` goes on from `t`. -/
theorem core_run_add {m : Nat} {s t : State} (h : core.run m s = .next t) (n : Nat) :
    core.run (m + n) s = core.run n t := by
  induction m generalizing s with
  | zero =>
    injection h with h
    rw [h, Nat.zero_add]
  | succ m ih =>
    obtain ⟨u, hu⟩ := step_next s
    rw [core_run_succ hu] at h
    rw [Nat.succ_add, core_run_succ hu, ih h]

/-- R73, R151: on an unlocked core a word that decodes runs its command, and the response follows it. -/
theorem step_of_command {s t : State} {c : Word} {i : Instr} {rest : List HostEvent} (hf : s.fault = false)
    (hp : s.pending = .transaction (.wr 0x00 c) :: rest) (hd : decode c = .command i)
    (ht : exec i (s.issued rest) = .next t) : step s = .next (t.respond (.wr t.fault)) := by
  rw [step_of_pending s _ rest hp, perform, execWr_cmd (s := s.issued rest) hf hd, launch_of_exec ht]

/-- Settles O17: every command answers a next state, and the step is that with its response. -/
theorem stepRunsDecodedCommand : Obligations.StepRunsDecodedCommand := by
  intro s c i rest hf hp hd
  obtain ⟨t, ht⟩ := exec_next i (s.issued rest)
  exact ⟨t, ht, step_of_command hf hp hd ht⟩

/-- Settles O13: the lock is tested before anything else (R54). -/
theorem lockedCommandsRejected : Obligations.LockedCommandsRejected := exec_of_locked

/-! ## The address map -/

theorem regAt_eq_none_iff (a : Addr) : regAt a = none ↔ a = 0x07 ∨ (0x30 ≤ a.toNat ∧ a.toNat ≤ 0x3F) := by
  have key : ∀ n : Fin 256, regAt (BitVec.ofFin n) = none ↔ n = 0x07 ∨ (0x30 ≤ n.val ∧ n.val ≤ 0x3F) := by
    decide +kernel
  have h7 : a = 0x07 ↔ a.toFin = 0x07 := BitVec.toFin_inj.symm
  rw [h7]
  exact key a.toFin

/-- Settles O22: the reserved addresses from the map itself, the rest from `regAt_addr` and its converse. -/
theorem addressMapIsFixed : Obligations.AddressMapIsFixed :=
  ⟨regAt_eq_none_iff, regAt_addr, fun _ _ h => (addr_of_regAt h).symm⟩

@[simp] theorem Reg.addr_h_toNat (i : Fin 8) : (Reg.h i).addr.toNat = 0x08 + i.val :=
  Nat.mod_eq_of_lt (by omega)

@[simp] theorem Reg.addr_v_toNat (i : Fin 8) : (Reg.v i).addr.toNat = 0x10 + i.val :=
  Nat.mod_eq_of_lt (by omega)

@[simp] theorem Reg.addr_m_toNat (i : Fin 16) : (Reg.m i).addr.toNat = 0x20 + i.val :=
  Nat.mod_eq_of_lt (by omega)

@[simp] theorem Reg.addr_w_toNat (i : Fin 64) : (Reg.w i).addr.toNat = 0x40 + i.val :=
  Nat.mod_eq_of_lt (by omega)

@[simp] theorem Reg.addr_bb_toNat (i : Fin 64) : (Reg.bb i).addr.toNat = 0xC0 + i.val :=
  Nat.mod_eq_of_lt (by omega)

/-! ## What a read finds after an operation -/

/-- Two states read alike at an address where the register that stands there reads alike. -/
theorem State.regRead_congr {s t : State} {a : Addr} (h : ∀ r : Reg, r.addr = a → t.readReg r = s.readReg r) :
    t.regRead a = s.regRead a := by
  unfold State.regRead
  cases hr : regAt a with
  | none => rfl
  | some r => exact h r (addr_of_regAt hr).symm

/-- A change of one register is not seen at any other address. -/
theorem State.regRead_of_ne_addr {s t : State} {a : Addr} (q : Reg) (ha : a ≠ q.addr)
    (h : ∀ r : Reg, r ≠ q → t.readReg r = s.readReg r) : t.regRead a = s.regRead a :=
  State.regRead_congr fun r hr => h r fun hq => ha (hq ▸ hr.symm)

@[simp] theorem State.readReg_issued (s : State) (rest : List HostEvent) (r : Reg) :
    (s.issued rest).readReg r = s.readReg r := by cases r <;> rfl

@[simp] theorem State.readReg_respond (s : State) (x : Response) (r : Reg) :
    (s.respond x).readReg r = s.readReg r := by cases r <;> rfl

theorem State.readReg_setOpa_of_ne (s : State) (d : Word) {r : Reg} (hr : r ≠ .opa) :
    (s.setOpa d).readReg r = s.readReg r := by
  cases r with
  | opa => exact absurd rfl hr
  | _ => rfl

theorem State.readReg_setAmt_of_ne (s : State) (d : Word) {r : Reg} (hr : r ≠ .amt) :
    (s.setAmt d).readReg r = s.readReg r := by
  cases r with
  | amt => exact absurd rfl hr
  | _ => rfl

theorem State.readReg_setByte_of_ne (s : State) (i : Fin 64) (d : Word) {r : Reg} (hr : r ≠ .bb i) :
    (s.setByte i d).readReg r = s.readReg r := by
  cases r with
  | bb j =>
    have hij : i.val ≠ j.val := fun h => hr (congrArg Reg.bb (Fin.ext h.symm))
    exact congrArg (fun b => some (zext32 b)) (Vector.getElem_set_ne i.isLt j.isLt hij)
  | _ => rfl

/-- R61: a register outside a command's footprint reads as before: each effect a command can have is compared with the
registers that could show it. -/
theorem CommandEffect.readReg_eq {i : Instr} {s t : State} (h : CommandEffect s i t) {r : Reg}
    (hr : ¬ commandFootprint i r.addr) : t.readReg r = s.readReg r := by
  simp only [commandFootprint, not_or] at hr
  obtain ⟨hstatus, herr, heinfo, hwritten⟩ := hr
  cases h with
  | locked => rfl
  | raised =>
    cases r with
    | status => exact absurd rfl hstatus
    | err => exact absurd rfl herr
    | einfo => exact absurd rfl heinfo
    | _ => rfl
  | loadWords =>
    cases r with
    | status => exact absurd rfl hstatus
    | m j => simp only [Reg.addr_m_toNat] at hwritten; omega
    | _ => rfl
  | storeBytes =>
    cases r with
    | bb j => simp only [Reg.addr_bb_toNat] at hwritten; omega
    | _ => rfl
  | setRes =>
    cases r with
    | res => exact absurd rfl hwritten
    | _ => rfl
  | loadSchedule =>
    cases r with
    | status => exact absurd rfl hstatus
    | w j => simp only [Reg.addr_w_toNat] at hwritten; omega
    | _ => rfl
  | foldHash =>
    cases r with
    | status => exact absurd rfl hstatus
    | h j => simp only [Reg.addr_h_toNat] at hwritten; omega
    | v j => simp only [Reg.addr_v_toNat] at hwritten; omega
    | _ => rfl
  | createHash =>
    cases r with
    | status => exact absurd rfl hstatus
    | h j => simp only [Reg.addr_h_toNat] at hwritten; omega
    | _ => rfl
  | reset => exact absurd trivial hwritten

/-- Settles O15: the register at the address, if there is one, lies outside the command's footprint. -/
theorem commandsReachOnlyTheirRegisters : Obligations.CommandsReachOnlyTheirRegisters :=
  fun _ _ _ _ h ha => State.regRead_congr fun _ hr => (exec_effect h).readReg_eq (hr ▸ ha)

/-! ## Commands repeated at once -/

/-- R92: assembling the same words from the same bytes again changes nothing. -/
theorem State.loadWords_loadWords (s : State) (n : Nat) : (s.loadWords n).loadWords n = s.loadWords n := by
  have hm : (s.loadWords n).loadedWords n = s.loadedWords n := by
    ext j hj : 1
    rw [State.loadedWords_getElem, State.loadWords_m, s.loadedWords_getElem]
    split
    · exact State.bbWord_congr (s.loadWords n) s rfl _
    · rfl
  exact congrArg (fun m => { s.loadWords n with m := m }) hm

@[simp] theorem State.storeBytes_storeBytes (s : State) (bb bb' : Vector Byte 64) :
    (s.storeBytes bb).storeBytes bb' = s.storeBytes bb' := rfl

/-- R94: writing the same words as bytes again changes nothing. -/
theorem serialise_serialise {n : Nat} (words : Vector Word n) (count : Nat) (bb : Vector Byte 64) :
    serialise words count (serialise words count bb) = serialise words count bb := by
  ext i hi : 1
  rw [serialise_getElem, serialise_getElem]
  split <;> rfl

/-- R166, R54: a command that raised a fault is rejected when repeated. -/
theorem exec_latch (i : Instr) (s : State) (e : ErrCode) (info : Word) (hi : i ≠ .rst) :
    exec i (s.latch e info) = .next (s.latch e info) :=
  exec_of_locked i _ rfl hi

theorem exec_b2w_of_words {len : BitVec 8} {s : State} (hf : s.fault = false) (hlen : len.toNat ≤ 64)
    (h4 : len.toNat % 4 = 0) : exec (.b2w len) s = .next (s.loadWords (len.toNat / 4)) := by
  have hlen' : ¬ 64 < len.toNat := by omega
  simp [exec, execB2w, State.ifUnlocked_of_unlocked s _ hf, hlen', h4]

theorem exec_w2b_m {s : State} (hf : s.fault = false) :
    exec (.w2b 0) s = .next (s.storeBytes (serialise s.m s.mlen.toNat s.bb)) := by
  simp [exec, execW2b, State.ifUnlocked_of_unlocked s _ hf]

theorem exec_w2b_h {s : State} (hf : s.fault = false) (hv : s.hv = true) :
    exec (.w2b 1) s = .next (s.storeBytes (serialise s.h 8 s.bb)) := by
  simp [exec, execW2b, State.ifUnlocked_of_unlocked s _ hf, hv]

theorem exec_rotr {s : State} (hf : s.fault = false) :
    exec .rotr s = .next (s.setRes (rotr s.opa (rotateAmount s.amt))) :=
  congrArg _ (State.ifUnlocked_of_unlocked s _ hf)

theorem exec_init {s : State} (hf : s.fault = false) : exec .init s = .next (s.createHash Rom.h0) :=
  congrArg _ (State.ifUnlocked_of_unlocked s _ hf)

/-- R122: `EXPAND` with no valid word in `M`. -/
theorem exec_expand_of_empty {s : State} (hf : s.fault = false) (hm : s.mlen = 0) :
    exec .expand s = .next (s.latch .eSeq (encode .expand)) := by
  simp [exec, execExpand, State.ifUnlocked_of_unlocked s _ hf, State.raise_of_unlocked s _ _ hf, hm]

/-- R122: `EXPAND` of a whole Block. -/
theorem exec_expand_of_full {s : State} (hf : s.fault = false) (hm : s.mlen = 16) :
    exec .expand s = .next (s.loadSchedule (expand s.m)) := by
  simp [exec, execExpand, State.ifUnlocked_of_unlocked s _ hf, hm]

/-- R134: `COMPRESS` without a Schedule. -/
theorem exec_compress_of_no_schedule {s : State} (hf : s.fault = false) (hw : s.wv = false) :
    exec .compress s = .next (s.latch .eSeq (encode .compress)) := by
  simp [exec, execCompress, State.ifUnlocked_of_unlocked s _ hf, State.raise_of_unlocked s _ _ hf, hw]

/-- R134: `COMPRESS` of a HashState and a Schedule. -/
theorem exec_compress_of_valid {s : State} (hf : s.fault = false) (hh : s.hv = true) (hw : s.wv = true) :
    exec .compress s = .next (s.foldHash (compressRounds s.w s.h) (compressBlock s.h s.w)) := by
  simp [exec, execCompress, State.ifUnlocked_of_unlocked s _ hf, hh, hw]

/-- R60: a rejected or faulting command leaves a locked core, which rejects it again; the others find what they read as
they left it. -/
theorem exec_repeated {i : Instr} {s t : State} (hexpand : i ≠ .expand) (hcompress : i ≠ .compress)
    (h : exec i s = .next t) : exec i t = .next t := by
  cases i with
  | b2w len =>
    obtain ⟨_, rfl⟩ | ⟨_, _, rfl⟩ | ⟨_, _, _, rfl⟩ | ⟨hf, hlen, h4, rfl⟩ := execB2w_cases h
    · exact h
    · exact exec_latch _ _ _ _ nofun
    · exact exec_latch _ _ _ _ nofun
    · simpa [s.loadWords_loadWords] using exec_b2w_of_words (s := s.loadWords (len.toNat / 4)) hf hlen h4
  | w2b src =>
    obtain ⟨_, rfl⟩ | ⟨_, _, rfl⟩ | ⟨_, _, _, rfl⟩ | ⟨hf, rfl, rfl⟩ | ⟨hf, rfl, hv, rfl⟩ := execW2b_cases h
    · exact h
    · exact exec_latch _ _ _ _ nofun
    · exact exec_latch _ _ _ _ nofun
    · simpa [serialise_serialise] using exec_w2b_m (s := s.storeBytes (serialise s.m s.mlen.toNat s.bb)) hf
    · simpa [serialise_serialise] using exec_w2b_h (s := s.storeBytes (serialise s.h 8 s.bb)) hf hv
  | rotr =>
    obtain ⟨_, rfl⟩ | ⟨hf, rfl⟩ := execRotr_cases h
    · exact h
    · exact exec_rotr hf
  | expand => exact absurd rfl hexpand
  | compress => exact absurd rfl hcompress
  | init =>
    obtain ⟨_, rfl⟩ | ⟨hf, rfl⟩ := execInit_cases h
    · exact h
    · exact exec_init hf
  | rst =>
    obtain rfl := execRst_cases h
    rfl

/-- Settles O14: `EXPAND` leaves no Block (`MLEN = 0`) and `COMPRESS` no Schedule (`WV = 0`) for a second one. -/
theorem repeatedCommands : Obligations.RepeatedCommands := by
  refine ⟨fun _ _ _ => exec_repeated, fun s t hf hm h => ?_, fun s t hf hh hw h => ?_⟩
  · obtain rfl : s.loadSchedule (expand s.m) = t := by injection (exec_expand_of_full hf hm).symm.trans h
    exact exec_expand_of_empty hf rfl
  · obtain rfl : s.foldHash _ _ = t := by injection (exec_compress_of_valid hf hh hw).symm.trans h
    exact exec_compress_of_no_schedule hf rfl

/-! ## The host's register writes -/

section RegisterWrites

variable {s : State} (hf : s.fault = false) {d : Word} {rest : List HostEvent}
include hf

/-- R151: on an unlocked core a `WR` goes to the register at the address. -/
theorem step_of_write {a : Addr} (hp : s.pending = .transaction (.wr a d) :: rest) :
    step s = writeReg a d (s.issued rest) := by
  rw [step_of_pending s _ rest hp, perform, execWr, if_neg (by simp [hf])]

theorem step_of_writeOpa (hp : s.pending = .transaction (.wr 0x04 d) :: rest) :
    step s = .next (((s.issued rest).setOpa d).respond (.wr false)) := by
  have hr : regAt 0x04 = some .opa := regAt_addr .opa
  rw [step_of_write hf hp, writeReg, hr]

theorem step_of_writeAmt (hp : s.pending = .transaction (.wr 0x05 d) :: rest) :
    step s = .next (((s.issued rest).setAmt d).respond (.wr false)) := by
  have hr : regAt 0x05 = some .amt := regAt_addr .amt
  rw [step_of_write hf hp, writeReg, hr]

theorem step_of_writeByte {i : Fin 64}
    (hp : s.pending = .transaction (.wr (BitVec.ofNat 8 (0xC0 + i.val)) d) :: rest) :
    step s = .next (((s.issued rest).setByte i d).respond (.wr false)) := by
  have hr : regAt (BitVec.ofNat 8 (0xC0 + i.val)) = some (.bb i) := regAt_addr (.bb i)
  rw [step_of_write hf hp, writeReg, hr]

end RegisterWrites

/-- Settles O24: each of the three kinds of write changes the one register it names. -/
theorem registerWriteFrame : Obligations.RegisterWriteFrame := by
  intro s a b d rest hf hp ha hba
  obtain rfl | rfl | hbyte := ha
  · refine ⟨_, step_of_writeOpa hf hp, State.regRead_of_ne_addr .opa hba fun r hr => ?_, hf⟩
    simp [State.readReg_setOpa_of_ne, hr]
  · refine ⟨_, step_of_writeAmt hf hp, State.regRead_of_ne_addr .amt hba fun r hr => ?_, hf⟩
    simp [State.readReg_setAmt_of_ne, hr]
  · obtain ⟨i, rfl⟩ : ∃ i : Fin 64, a = (Reg.bb i).addr := ⟨_, addr_of_regAt (regAt_of_byte a hbyte)⟩
    refine ⟨_, step_of_writeByte hf hp, State.regRead_of_ne_addr (.bb i) hba fun r hr => ?_, hf⟩
    simp [State.readReg_setByte_of_ne, hr]

/-- R56: `data[7:0]`, zero-extended, is the data modulo 256. -/
theorem zext32_low_byte (d : Word) : zext32 (d.extractLsb' 0 8) = BitVec.ofNat 32 (d.toNat % 256) := by
  apply BitVec.eq_of_toNat_eq
  simp [zext32, BitVec.extractLsb'_toNat]

/-- Settles O23: the read after the write finds the byte just stored. -/
theorem byteBufferAccess : Obligations.ByteBufferAccess := by
  intro s i d rest hf hp
  have hread : (s.setByte i d).readReg (.bb i) = some (BitVec.ofNat 32 (d.toNat % 256)) := by
    simp [State.readReg, zext32_low_byte]
  have hreads : ((s.setByte i d).respond (.wr false)).readsAs (Reg.bb i).addr (BitVec.ofNat 32 (d.toNat % 256)) :=
    State.readsAs_addr (by rw [State.readReg_respond, hread])
  refine ⟨_, _, step_of_writeByte hf hp, hreads rest, fun j hj => ?_, rfl, ?_⟩
  · exact Vector.getElem_set_ne i.isLt j.isLt fun h => hj (Fin.ext h.symm)
  · simp

/-! ## A block written byte by byte -/

/-- R56: the byte stored from a zero-extended byte. -/
theorem low_byte_zext32 (b : Byte) : (zext32 b).extractLsb' 0 8 = b := by
  apply BitVec.eq_of_toNat_eq
  simp [zext32, BitVec.extractLsb'_toNat]
  omega

/-- The writes of the bytes of a block to `BB`, in the given order (R63). -/
def byteWrites (bytes : Vector Byte 64) (order : List (Fin 64)) : List HostEvent :=
  order.map fun i => .transaction (.wr (BitVec.ofNat 8 (0xC0 + i.val)) (bytes[i].setWidth 32))

/-- What `n` accepted writes to `BB` leave: the bytes `bb`, and one response for each. -/
def State.afterByteWrites (s : State) (bb : Vector Byte 64) (n : Nat) (rest : List HostEvent) : State :=
  { s with bb := bb, pending := rest, responses := s.responses ++ List.replicate n (.wr false) }

/-- R56, R63: the writes raise no fault, and whatever their order, each byte written is the block's and the others are
as they were. -/
theorem core_run_byteWrites {s : State} (bytes : Vector Byte 64) (order : List (Fin 64)) (rest : List HostEvent)
    (hf : s.fault = false) (hp : s.pending = byteWrites bytes order ++ rest) :
    ∃ bb : Vector Byte 64, (∀ i : Fin 64, bb[i] = if i ∈ order then bytes[i] else s.bb[i]) ∧
      core.run order.length s = .next (s.afterByteWrites bb order.length rest) := by
  induction order generalizing s with
  | nil => exact ⟨s.bb, by simp, by simp [State.afterByteWrites, ← show s.pending = rest from hp]⟩
  | cons k order ih =>
    obtain ⟨bb, hbb, hrun⟩ :=
      ih (s := ((s.issued (byteWrites bytes order ++ rest)).setByte k (zext32 bytes[k])).respond (.wr false)) hf rfl
    refine ⟨bb, fun i => ?_, ?_⟩
    · by_cases hik : i = k
      · subst hik
        simp [hbb, low_byte_zext32]
      · have hki : k.val ≠ i.val := fun h => hik (Fin.ext h.symm)
        simp [hbb, hik, hki]
    · refine (core_run_succ (step_of_writeByte hf hp) _).trans (hrun.trans ?_)
      simp [State.afterByteWrites, List.replicate_succ]

/-- Settles O50: after the writes `BB` is the block, whatever the order, and `B2W 64` assembles its words. -/
theorem blockLoadsInAnyOrder : Obligations.BlockLoadsInAnyOrder := by
  intro s bytes order rest hf hperm hp
  obtain ⟨bb, hbb, hrun⟩ := core_run_byteWrites bytes order _ hf hp
  have hlen : order.length = 64 := hperm.length_eq.trans (List.length_finRange ..)
  obtain rfl : bb = bytes := by
    ext i hi : 1
    have hmem : (⟨i, hi⟩ : Fin 64) ∈ order := hperm.mem_iff.mpr (List.mem_finRange _)
    simpa [hmem] using hbb ⟨i, hi⟩
  rw [hlen] at hrun
  have hb2w := step_of_command (s := s.afterByteWrites bb 64 (.transaction (.wr 0x00 0x00004001) :: rest)) hf rfl
    (by decide) (exec_b2w_of_words (len := 64) hf (by decide) (by decide))
  have hresponses : s.responses ++ List.replicate 64 (.wr false) ++ [.wr s.fault] =
      s.responses ++ List.replicate 65 (.wr false) := by
    rw [hf, List.append_assoc, ← List.replicate_succ']
  refine ⟨_, (core_run_add hrun 1).trans (core_run_succ hb2w 0), rfl, rfl, rfl, fun j => ?_, ?_⟩
  · exact State.loadedWords_getElem _ 16 j j.isLt |>.trans (if_pos j.isLt)
  · rw [← hresponses]
    rfl

/-! ## Several cores side by side -/

/-- R183: core `k` performs its next event, the others stand still. -/
theorem Instances.stepAt_of_step {n : Nat} (x : Instances n) {k : Fin n} {t : State} (h : step x[k] = .next t) :
    x.stepAt k = .next (x.set k t) := by
  simp only [Instances.stepAt, h]

/-- Settles O55, by induction on the interleaving: its first event steps one core once. -/
theorem instancesAreIndependent : Obligations.InstancesAreIndependent := by
  intro n x order
  induction order generalizing x with
  | nil => exact ⟨x, rfl, fun _ => rfl⟩
  | cons k order ih =>
    obtain ⟨t, ht⟩ := step_next x[k]
    obtain ⟨y, hy, halone⟩ := ih (x.set k t)
    refine ⟨y, ?_, fun j => ?_⟩
    · simpa only [Instances.interleave, x.stepAt_of_step ht] using hy
    · rw [← halone j]
      by_cases hkj : k = j
      · subst hkj
        rw [List.count_cons_self, core_run_succ ht]
        simp
      · have hval : k.val ≠ j.val := fun h => hkj (Fin.ext h)
        simp [hkj, hval]

end Sys2Proof.Machine

/-! PROOFS for the encoding family: the decoder outcome by outcome and its agreement with the encoder (30_encoding.md R70
to R73), illegal command words (R74, 60_exceptions.md R169), and the pseudo-instruction `ROTRI` (R78). -/

namespace Sys2Proof

/-! ## What the fields of a word say -/

/-- R71: the `OPC` values that select a command. -/
def legalOpcodes : List (BitVec 8) := [0x01, 0x02, 0x03, 0x04, 0x05, 0x06, 0xFF]

/-- R72, for a legal `OPC`: the `ARG` values out of its range. -/
def operandOutOfRange (opc arg : BitVec 8) : Prop :=
  (opc = 0x01 ∧ 64 < arg.toNat) ∨ (opc = 0x02 ∧ 1 < arg.toNat) ∨
    (opc ∈ ([0x03, 0x04, 0x05, 0x06, 0xFF] : List (BitVec 8)) ∧ arg ≠ 0)

/-- What the fields of a word say when decoding it gives this outcome; `decode_eq_iff` says that the decoder gives it
exactly then. -/
def Decoded.Describes (c : Word) : Decoded → Prop
  | .command i => rsvField c = 0 ∧ opcField c = i.opcode ∧ argField c = i.operand ∧ i.wellFormed = true
  | .illegal .reserved => rsvField c ≠ 0
  | .illegal .opcode => rsvField c = 0 ∧ opcField c ∉ legalOpcodes
  | .illegal .operand => rsvField c = 0 ∧ operandOutOfRange (opcField c) (argField c)

/-- A legal `OPC` with `ARG` in its range belongs to a well-formed command (R71, R72). -/
theorem exists_instr_of_fields {opc arg : BitVec 8} (hopc : opc ∈ legalOpcodes) (harg : ¬ operandOutOfRange opc arg) :
    ∃ i : Instr, opc = i.opcode ∧ arg = i.operand ∧ i.wellFormed = true := by
  simp only [legalOpcodes, List.mem_cons, List.not_mem_nil, or_false] at hopc
  simp only [operandOutOfRange, not_or, not_and, not_not, ne_eq, not_lt] at harg
  obtain ⟨hlen, hsrc, hnone⟩ := harg
  obtain rfl | rfl | rfl | rfl | rfl | rfl | rfl := hopc
  · exact ⟨.b2w arg, rfl, rfl, decide_eq_true (hlen rfl)⟩
  · exact ⟨.w2b arg, rfl, rfl, decide_eq_true (hsrc rfl)⟩
  · exact ⟨.rotr, rfl, hnone (by decide), rfl⟩
  · exact ⟨.expand, rfl, hnone (by decide), rfl⟩
  · exact ⟨.compress, rfl, hnone (by decide), rfl⟩
  · exact ⟨.init, rfl, hnone (by decide), rfl⟩
  · exact ⟨.rst, rfl, hnone (by decide), rfl⟩

/-- R73: every word selects a command with a legal operand, or is illegal. -/
theorem exists_describes (c : Word) : ∃ d : Decoded, d.Describes c := by
  by_cases hrsv : rsvField c = 0
  · by_cases hopc : opcField c ∈ legalOpcodes
    · by_cases harg : operandOutOfRange (opcField c) (argField c)
      · exact ⟨.illegal .operand, hrsv, harg⟩
      · obtain ⟨i, hi⟩ := exists_instr_of_fields hopc harg
        exact ⟨.command i, hrsv, hi⟩
    · exact ⟨.illegal .opcode, hrsv, hopc⟩
  · exact ⟨.illegal .reserved, hrsv⟩

/-- The decoder gives the outcome that describes the word. -/
theorem decode_of_describes {c : Word} {d : Decoded} (h : d.Describes c) : decode c = d := by
  match d with
  | .illegal .reserved => exact if_pos h
  | .illegal .opcode =>
    obtain ⟨hrsv, hopc⟩ := h
    simp only [legalOpcodes, List.mem_cons, List.not_mem_nil, or_false, not_or] at hopc
    simp_all [decode]
  | .illegal .operand =>
    obtain ⟨hrsv, ⟨hopc, harg⟩ | ⟨hopc, harg⟩ | ⟨hopc, harg⟩⟩ := h
    · simp [decode, hrsv, hopc, harg]
    · simp [decode, hrsv, hopc, harg]
    · simp only [List.mem_cons, List.not_mem_nil, or_false] at hopc
      obtain hopc | hopc | hopc | hopc | hopc := hopc <;> simp_all [decode, noOperand]
  | .command i =>
    obtain ⟨hrsv, hopc, harg, hwf⟩ := h
    cases i <;> simp_all [decode, noOperand, Instr.opcode, Instr.operand, Instr.wellFormed]

/-- The decoder, outcome by outcome. -/
theorem decode_eq_iff {c : Word} {d : Decoded} : decode c = d ↔ d.Describes c := by
  refine ⟨fun h => ?_, decode_of_describes⟩
  obtain ⟨d', hd'⟩ := exists_describes c
  rwa [← h, decode_of_describes hd']

/-! ## Decoding and encoding -/

/-- R70: a word with `RSV = 0` and the `OPC` and `ARG` of a command is that command's word. -/
theorem encode_eq_of_fields {c : Word} {i : Instr} (hrsv : rsvField c = 0) (hopc : opcField c = i.opcode)
    (harg : argField c = i.operand) : encode i = c := by
  rw [← word_of_fields c, hrsv, hopc, harg]
  rfl

/-- R73: the words that decode to a command are the word of that command, if it is well-formed. -/
theorem decode_eq_command_iff {c : Word} {i : Instr} :
    decode c = .command i ↔ encode i = c ∧ i.wellFormed = true := by
  refine decode_eq_iff.trans ⟨fun ⟨hrsv, hopc, harg, hwf⟩ => ⟨encode_eq_of_fields hrsv hopc harg, hwf⟩, ?_⟩
  rintro ⟨rfl, hwf⟩
  obtain ⟨hopc, harg, hrsv⟩ := encode_fields i
  exact ⟨hrsv, hopc, harg, hwf⟩

/-- Settles O1: both directions are `decode_eq_command_iff`. -/
theorem encodeDecodeRoundTrip : Obligations.EncodeDecodeRoundTrip :=
  ⟨fun _ hwf => decode_eq_command_iff.2 ⟨rfl, hwf⟩, fun _ _ => decode_eq_command_iff.1⟩

theorem encode_eq_ofNat (i : Instr) : encode i = BitVec.ofNat 32 (256 * i.operand.toNat + i.opcode.toNat) := by
  rw [← encode_toNat, BitVec.ofNat_toNat, BitVec.setWidth_eq]

/-- Settles O2: the 72 words are those of the well-formed commands, 65 of `B2W`, two of `W2B`, one each of the others. -/
theorem legalCommandWords : Obligations.LegalCommandWords := by
  intro c
  simp only [decode_eq_command_iff]
  constructor
  · rintro ⟨i, rfl, hwf⟩
    cases i with
    | b2w len => exact .inl ⟨len.toNat, of_decide_eq_true hwf, encode_eq_ofNat _⟩
    | w2b src =>
      have hsrc : src.toNat ≤ 1 := of_decide_eq_true hwf
      obtain rfl | rfl : src = 0 ∨ src = 1 := by bv_omega
      · exact .inr (by decide)
      · exact .inr (by decide)
    | rotr | expand | compress | init | rst => exact .inr (by decide)
  · rintro (⟨len, hlen, rfl⟩ | rfl | rfl | rfl | rfl | rfl | rfl | rfl)
    · have hlen' : (BitVec.ofNat 8 len).toNat = len := Nat.mod_eq_of_lt (by omega)
      refine ⟨.b2w (BitVec.ofNat 8 len), ?_, decide_eq_true (hlen'.trans_le hlen)⟩
      rw [encode_eq_ofNat, Instr.operand, hlen']
      rfl
    · exact ⟨.w2b 0, by decide⟩
    · exact ⟨.w2b 1, by decide⟩
    · exact ⟨.rotr, by decide⟩
    · exact ⟨.expand, by decide⟩
    · exact ⟨.compress, by decide⟩
    · exact ⟨.init, by decide⟩
    · exact ⟨.rst, by decide⟩

/-- Settles O3: the three illegal outcomes of `decode_eq_iff`. -/
theorem illegalWordReasons : Obligations.IllegalWordReasons :=
  fun _ => ⟨decode_eq_iff, decode_eq_iff, decode_eq_iff⟩

/-- Settles O4, by running the decoder on each word. -/
theorem decodesWrittenWords : Obligations.DecodesWrittenWords := by
  unfold Obligations.DecodesWrittenWords
  decide

end Sys2Proof

namespace Sys2Proof.Machine

/-! ## Illegal command words -/

/-- R74: the decoder names a reason for every illegal word. -/
theorem exists_illegal_of_illegalWord {c : Word} (h : illegalWord c) : ∃ why, decode c = .illegal why := by
  by_cases hrsv : rsvField c = 0
  · obtain hrsv' | hopc | harg := h
    · exact absurd hrsv hrsv'
    · exact ⟨.opcode, decode_eq_iff.2 ⟨hrsv, hopc⟩⟩
    · exact ⟨.operand, decode_eq_iff.2 ⟨hrsv, harg⟩⟩
  · exact ⟨.reserved, decode_eq_iff.2 hrsv⟩

/-- R74: on an unlocked core a word that does not decode is latched with `E_OPC`. -/
theorem step_of_illegal {s : State} {c : Word} {why : Illegal} {rest : List HostEvent} (hf : s.fault = false)
    (hp : s.pending = .transaction (.wr 0x00 c) :: rest) (hd : decode c = .illegal why) :
    step s = .next (((s.issued rest).latch .eOpc c).respond (.wr true)) := by
  have hr : regAt 0x00 = some .cmd := regAt_addr .cmd
  rw [step_of_write hf hp, writeReg, hr]
  simp only [writeCommand, hd, (s.issued rest).raise_of_unlocked .eOpc c hf]

/-- Settles O5: an illegal word does not decode, so the step latches `E_OPC`. -/
theorem illegalCommandWordFaults : Obligations.IllegalCommandWordFaults := by
  intro s c rest hf hp hc
  obtain ⟨why, hd⟩ := exists_illegal_of_illegalWord hc
  exact step_of_illegal hf hp hd

/-- Settles O18: whatever the host's next event, it is performed to completion. -/
theorem stepNeverStops : Obligations.StepNeverStops := step_next

/-! ## `ROTRI` -/

/-- R98: the low five bits of an integer in two's complement are its non-negative remainder mod 32. -/
theorem rotateAmount_ofInt (n : Int) : rotateAmount (BitVec.ofInt 32 n) = (n % 32).toNat := by
  rw [rotateAmount_eq, BitVec.toNat_ofInt]
  omega

/-- R97: `ROTR` leaves in `RES` the rotation of `OPA` by the integer written to `AMT`. -/
theorem exec_rotr_of_ofInt {s : State} {n : Int} (hf : s.fault = false) (hamt : s.amt = BitVec.ofInt 32 n) :
    exec .rotr s = .next (s.setRes (circularRotateRight s.opa n)) := by
  rw [exec_rotr hf, hamt, rotateAmount_ofInt, circularRotateRight]

/-- R53: the two writes that place the operands of `ROTR`. -/
theorem core_run_wr_opa_amt {s : State} {x d : Word} {rest : List HostEvent} (hf : s.fault = false)
    (hp : s.pending = .transaction (.wr 0x04 x) :: .transaction (.wr 0x05 d) :: rest) :
    ∃ t, core.run 2 s = .next t ∧ t.opa = x ∧ t.amt = d ∧ t.fault = false ∧ t.pending = rest ∧
      t.responses = s.responses ++ [Response.wr false, .wr false] := by
  have hopa := step_of_writeOpa hf hp
  have hamt := step_of_writeAmt
    (s := ((s.issued (.transaction (.wr 0x05 d) :: rest)).setOpa x).respond (.wr false)) hf rfl
  refine ⟨_, (core_run_succ hopa 1).trans (core_run_succ hamt 0), ?_⟩
  simp [hf]

/-- R97, R152: with the operands in place, `ROTR` and a read of `RES` return the rotation. -/
theorem core_run_rotr_rd {s : State} {n : Int} {rest : List HostEvent} (hf : s.fault = false)
    (hamt : s.amt = BitVec.ofInt 32 n)
    (hp : s.pending = .transaction (asm .rotr) :: .transaction (.rd Reg.res.addr) :: rest) :
    ∃ t, core.run 2 s = .next t ∧ t.pending = rest ∧ t.fault = false ∧
      t.responses = s.responses ++ [Response.wr false, .rd false (circularRotateRight s.opa n)] := by
  have hdecode : decode (encode .rotr) = .command .rotr := decode_eq_command_iff.2 ⟨rfl, rfl⟩
  have hrotr := step_of_command hf hp hdecode (exec_rotr_of_ofInt hf hamt)
  have hread : ((s.setRes (circularRotateRight s.opa n)).respond (.wr s.fault)).readsAs Reg.res.addr
      (circularRotateRight s.opa n) := State.readsAs_addr rfl
  refine ⟨_, (core_run_succ hrotr 1).trans (core_run_succ (hread rest) 0), ?_⟩
  simp [hf]

/-- Settles O51: the amount goes to `AMT` in two's complement, of which `ROTR` takes the remainder mod 32. -/
theorem rotriReturnsRotation : Obligations.RotriReturnsRotation := by
  intro s x amt rest hf _ _ hp
  obtain ⟨t, hwrites, rfl, hamt, hft, hpt, hrt⟩ := core_run_wr_opa_amt hf hp
  obtain ⟨u, hrotr, hpu, hfu, hru⟩ := core_run_rotr_rd hft hamt hpt
  refine ⟨u, (core_run_add hwrites 2).trans hrotr, hpu, hfu, ?_⟩
  simp [hru, hrt]

end Sys2Proof.Machine

/-! PROOFS for the codec family (spec 40_codec.md): the rotate and its laws (R96 to R99), the commands `B2W` and `W2B`
(R92, R94), and the round trips between words and bytes, of the functions and of the commands (R91, R93, R95). -/

namespace Sys2Proof.Machine

/-! ## Words with the `OPC` of a command without operand -/

/-- R73, R74: where one command alone has an `OPC`, every other word with it is illegal. -/
theorem exists_illegal_of_opcField {c : Word} {i : Instr} (honly : ∀ j : Instr, j.opcode = i.opcode → j = i)
    (hopc : opcField c = i.opcode) (hc : c ≠ encode i) : ∃ why, decode c = .illegal why := by
  cases hd : decode c with
  | illegal why => exact ⟨why, rfl⟩
  | command j =>
    obtain ⟨rfl, _⟩ := decode_eq_command_iff.1 hd
    obtain rfl := honly j ((encode_fields j).1.symm.trans hopc)
    exact absurd rfl hc

/-! ## The rotate -/

/-- R99: amounts add up mod 32. -/
theorem rotr_rotr (x : Word) {r q : Nat} (hr : r < 32) (hq : q < 32) :
    rotr (rotr x r) q = rotr x ((r + q) % 32) := by
  apply BitVec.eq_of_getLsbD_eq
  intro i hi
  have hiq : (i + q) % 32 < 32 := Nat.mod_lt _ (by decide)
  have hrq : (r + q) % 32 < 32 := Nat.mod_lt _ (by decide)
  have hplace : ((i + q) % 32 + r) % 32 = (i + (r + q) % 32) % 32 := by omega
  rw [rotr_getLsbD _ _ _ hq hi, rotr_getLsbD _ _ _ hr hiq, rotr_getLsbD _ _ _ hrq hi, hplace]

theorem circularRotateRight_circularRotateRight (x : Word) (n m : Int) :
    circularRotateRight (circularRotateRight x n) m = circularRotateRight x (n + m) := by
  have hsum : ((n % 32).toNat + (m % 32).toNat) % 32 = ((n + m) % 32).toNat := by omega
  rw [circularRotateRight, circularRotateRight, rotr_rotr x (by omega) (by omega), hsum, circularRotateRight]

/-- R99: a whole number of turns gives the word back. -/
theorem circularRotateRight_of_emod_eq_zero (x : Word) {n : Int} (hn : n % 32 = 0) : circularRotateRight x n = x := by
  rw [circularRotateRight, hn]
  rfl

/-- Settles O42: the amounts add up, and `n + (-n)` and `n + (32 - n)` are whole turns. -/
theorem rotateLaws : Obligations.RotateLaws := by
  refine ⟨fun x n => ?_, fun x n _ _ => ?_, circularRotateRight_circularRotateRight⟩ <;>
    rw [circularRotateRight_circularRotateRight, circularRotateRight_of_emod_eq_zero _ (by omega)]

theorem toInt_eq_toNat_sub_sign (amt : Word) :
    amt.toInt = (amt.toNat : Int) - 2 ^ 32 * (amt.getLsbD 31).toNat := by
  rw [BitVec.toInt_eq_msb_cond, BitVec.msb_eq_getLsbD_last]
  cases amt.getLsbD 31 <;> simp

/-- Settles O41: every word is its own two's-complement value written back, so `rotateAmount_ofInt` and
`exec_rotr_of_ofInt` hold of it. -/
theorem rotateAmountIsSigned : Obligations.RotateAmountIsSigned := by
  refine ⟨fun amt => ⟨toInt_eq_toNat_sub_sign amt, BitVec.le_toInt amt, Int.le_sub_one_of_lt BitVec.toInt_lt, ?_⟩,
    fun s hf => exec_rotr_of_ofInt hf BitVec.ofInt_toInt.symm⟩
  rw [← rotateAmount_ofInt, BitVec.ofInt_toInt, rotateAmount]

/-- Settles O8: `rotr_getLsbD` for the amount `AMT mod 32`. -/
theorem rotrRotatesRight : Obligations.RotrRotatesRight := by
  refine ⟨by decide, fun c hopc hc => ?_, fun s hf => ⟨_, exec_rotr hf, fun i hi => ?_⟩⟩
  · exact exists_illegal_of_opcField (i := .rotr) (by rintro ⟨⟩ <;> simp [Instr.opcode]) hopc hc
  · rw [rotr_getLsbD _ _ _ (rotateAmount_lt _) hi, rotateAmount_eq]

/-! ## `B2W` and `W2B` -/

/-- R92, R162: a length beyond `BB`. -/
theorem exec_b2w_of_too_long {len : BitVec 8} {s : State} (hf : s.fault = false) (hlen : 64 < len.toNat) :
    exec (.b2w len) s = .next (s.latch .eOpc (encode (.b2w len))) := by
  simp [exec, execB2w, State.ifUnlocked_of_unlocked s _ hf, State.raise_of_unlocked s _ _ hf, hlen]

/-- R92, R161: a length that is no whole number of words. -/
theorem exec_b2w_of_part_word {len : BitVec 8} {s : State} (hf : s.fault = false) (hlen : len.toNat ≤ 64)
    (h4 : len.toNat % 4 ≠ 0) : exec (.b2w len) s = .next (s.latch .eLen (encode (.b2w len))) := by
  have hlen' : ¬ 64 < len.toNat := by omega
  simp [exec, execB2w, State.ifUnlocked_of_unlocked s _ hf, State.raise_of_unlocked s _ _ hf, hlen', h4]

/-- Settles O6: the two faults, then the words `State.loadWords` puts into `M`. -/
theorem b2wConvertsBytes : Obligations.B2wConvertsBytes := by
  intro len s hf
  refine ⟨encode_toNat _, exec_b2w_of_too_long hf, exec_b2w_of_part_word hf, fun hlen h4 => ?_⟩
  refine ⟨_, exec_b2w_of_words hf hlen h4, rfl, s.loadWords_mlen_toNat (by omega), fun j =>
    ⟨fun hj => ?_, fun hj => ?_⟩⟩
  · exact (s.loadedWords_getElem _ j j.isLt).trans (if_pos hj)
  · exact (s.loadedWords_getElem _ j j.isLt).trans (if_neg (by omega))

/-- R94: a source that does not exist. -/
theorem exec_w2b_of_bad_source {src : BitVec 8} {s : State} (hf : s.fault = false) (hsrc : 1 < src.toNat) :
    exec (.w2b src) s = .next (s.latch .eOpc (encode (.w2b src))) := by
  simp [exec, execW2b, State.ifUnlocked_of_unlocked s _ hf, State.raise_of_unlocked s _ _ hf, hsrc]

/-- R94: `W2B H` without a HashState. -/
theorem exec_w2b_of_no_hash {s : State} (hf : s.fault = false) (hv : s.hv = false) :
    exec (.w2b 1) s = .next (s.latch .eSeq (encode (.w2b 1))) := by
  simp [exec, execW2b, State.ifUnlocked_of_unlocked s _ hf, State.raise_of_unlocked s _ _ hf, hv]

section Serialise

variable {n : Nat} (words : Vector Word n) {count : Nat} (bb : Vector Byte 64)

/-- R94: byte `k` of word `j` goes to place `4j + k`. -/
theorem serialise_getElem_of_word {i j k : Nat} (hi : i < 64) (hn : j < n) (hj : j < count) (hk : k < 4)
    (hijk : i = 4 * j + k) : (serialise words count bb)[i] = byteK k words[j] := by
  obtain rfl : i / 4 = j := by omega
  obtain rfl : i % 4 = k := by omega
  exact (serialise_getElem words count bb i hi).trans (dif_pos ⟨by omega, hn⟩)

/-- R94: the bytes beyond the words written keep their content. -/
theorem serialise_getElem_of_beyond {i : Nat} (hi : i < 64) (hcount : 4 * count ≤ i) :
    (serialise words count bb)[i] = bb[i] :=
  (serialise_getElem words count bb i hi).trans (dif_neg (by omega))

end Serialise

/-- Settles O7: the two faults, then the bytes `serialise` puts into `BB`, of eight words of `H` or `MLEN` of `M`. -/
theorem w2bSerialisesWords : Obligations.W2bSerialisesWords := by
  refine ⟨by decide, by decide, fun s hf =>
    ⟨fun src => exec_w2b_of_bad_source hf, exec_w2b_of_no_hash hf, fun hv => ?_, ?_⟩⟩
  · exact ⟨_, exec_w2b_h hf hv, fun i =>
      ⟨fun j k => serialise_getElem_of_word s.h s.bb i.isLt j.isLt j.isLt k.isLt,
        serialise_getElem_of_beyond s.h (count := 8) s.bb i.isLt⟩⟩
  · exact ⟨_, exec_w2b_m hf, fun i =>
      ⟨fun j k hj => serialise_getElem_of_word s.m s.bb i.isLt j.isLt hj k.isLt,
        serialise_getElem_of_beyond s.m s.bb i.isLt⟩⟩

/-! ## Words to bytes and back: the functions -/

/-- R16: `be32` puts its bytes where `byteK` finds them. -/
theorem byteK_be32 (b0 b1 b2 b3 : Byte) :
    byteK 0 (be32 b0 b1 b2 b3) = b0 ∧ byteK 1 (be32 b0 b1 b2 b3) = b1 ∧
      byteK 2 (be32 b0 b1 b2 b3) = b2 ∧ byteK 3 (be32 b0 b1 b2 b3) = b3 := by
  unfold byteK be32
  refine ⟨?_, ?_, ?_, BitVec.extractLsb'_append_eq_right⟩
  · rw [BitVec.extractLsb'_append_eq_of_le (by decide), BitVec.extractLsb'_append_eq_of_le (by decide)]
    exact BitVec.extractLsb'_append_eq_left
  · rw [BitVec.extractLsb'_append_eq_of_le (by decide), BitVec.extractLsb'_append_eq_of_le (by decide)]
    exact BitVec.extractLsb'_append_eq_right
  · rw [BitVec.extractLsb'_append_eq_of_le (by decide)]
    exact BitVec.extractLsb'_append_eq_right

@[simp] theorem wordsToBytes_nil : wordsToBytes [] = [] := rfl

@[simp] theorem wordsToBytes_cons (w : Word) (ws : List Word) :
    wordsToBytes (w :: ws) = byteK 0 w :: byteK 1 w :: byteK 2 w :: byteK 3 w :: wordsToBytes ws := rfl

@[simp] theorem length_wordsToBytes (ws : List Word) : (wordsToBytes ws).length = 4 * ws.length := by
  induction ws with
  | nil => rfl
  | cons w ws ih =>
    simp only [wordsToBytes_cons, List.length_cons, ih]
    omega

/-- R93: byte `i` is byte `i mod 4` of word `i / 4`. -/
theorem wordsToBytes_getElem (ws : List Word) (i : Nat) (hi : i < (wordsToBytes ws).length) :
    (wordsToBytes ws)[i] = byteK (i % 4) (ws[i / 4]'(by rw [length_wordsToBytes] at hi; omega)) := by
  induction ws generalizing i with
  | nil => simp at hi
  | cons w ws ih =>
    match i with
    | 0 | 1 | 2 | 3 => rfl
    | i + 4 =>
      have hdiv : (i + 4) / 4 = i / 4 + 1 := by omega
      simp [ih, hdiv]

theorem groupWords_wordsToBytes (ws : List Word) : groupWords (wordsToBytes ws) = ws := by
  induction ws with
  | nil => rfl
  | cons w ws ih => rw [wordsToBytes_cons, groupWords, be32_byteK, ih]

/-- R95: a word sequence turned into bytes and back. -/
theorem bytesToWords_wordsToBytes (ws : List Word) : bytesToWords (wordsToBytes ws) = some ws := by
  simp [bytesToWords, groupWords_wordsToBytes]

/-- R95: a whole number of words taken from bytes and turned back. -/
theorem wordsToBytes_groupWords (bs : List Byte) (h4 : bs.length % 4 = 0) : wordsToBytes (groupWords bs) = bs := by
  induction bs using groupWords.induct with
  | case1 b0 b1 b2 b3 rest ih =>
    obtain ⟨h0, h1, h2, h3⟩ := byteK_be32 b0 b1 b2 b3
    rw [groupWords, wordsToBytes_cons, h0, h1, h2, h3, ih (by simp only [List.length_cons] at h4; omega)]
  | case2 bs hbs =>
    match bs with
    | [] => rfl
    | [_] | [_, _] | [_, _, _] => cases h4
    | b0 :: b1 :: b2 :: b3 :: rest => exact absurd rfl (hbs b0 b1 b2 b3 rest)

theorem bytesToWords_of_words {bs : List Byte} (h4 : bs.length % 4 = 0) : bytesToWords bs = some (groupWords bs) :=
  if_pos h4

theorem bytesToWords_eq_none_iff (bs : List Byte) : bytesToWords bs = none ↔ bs.length % 4 ≠ 0 := by
  simp [bytesToWords]

/-! ## Words to bytes and back: the commands -/

/-- R93, R94: the bytes `W2B` writes are `wordsToBytes` of the words it takes. -/
theorem serialise_toList_take {n count : Nat} (words : Vector Word n) (bb : Vector Byte 64) (hn : count ≤ n)
    (h64 : 4 * count ≤ 64) :
    (serialise words count bb).toList.take (4 * count) = wordsToBytes (words.toList.take count) := by
  refine List.ext_getElem (by simp; omega) fun i hi hi' => ?_
  have hcount : i < 4 * count := by
    rw [List.length_take] at hi
    omega
  rw [List.getElem_take, Vector.getElem_toList, wordsToBytes_getElem, List.getElem_take, Vector.getElem_toList]
  exact serialise_getElem_of_word words bb (by omega) (by omega) (by omega) (Nat.mod_lt i (by decide)) (by omega)

theorem State.byteK_bbWord (s : State) (j : Fin 16) {k : Nat} (hk : k < 4) :
    byteK k (s.bbWord j) = s.bb[4 * j.val + k] := by
  obtain ⟨h0, h1, h2, h3⟩ :=
    byteK_be32 s.bb[4 * j.val] s.bb[4 * j.val + 1] s.bb[4 * j.val + 2] s.bb[4 * j.val + 3]
  match k, hk with
  | 0, _ => exact h0
  | 1, _ => exact h1
  | 2, _ => exact h2
  | 3, _ => exact h3

/-- R95: the words `B2W` takes from `BB`, written back by `W2B M`, are the bytes that were there. -/
theorem State.serialise_loadedWords (s : State) (count : Nat) : serialise (s.loadedWords count) count s.bb = s.bb := by
  ext i hi : 1
  rw [serialise_getElem]
  split
  next h =>
    have hplace : 4 * (i / 4) + i % 4 = i := Nat.div_add_mod i 4
    rw [s.loadedWords_getElem _ _ h.2, if_pos (by omega), s.byteK_bbWord _ (Nat.mod_lt i (by decide))]
    simp only [hplace]
  next => rfl

/-- R95: a word written to `BB` by `W2B` is assembled again from its four bytes. -/
theorem State.bbWord_storeBytes_serialise (s : State) {n count : Nat} (words : Vector Word n) (j : Fin 16)
    (hn : j.val < n) (hj : j.val < count) :
    (s.storeBytes (serialise words count s.bb)).bbWord j = words[j.val] := by
  have hbyte : ∀ k (hk : k < 4), (serialise words count s.bb)[4 * j.val + k] = byteK k words[j.val] := fun k hk =>
    serialise_getElem_of_word words s.bb (by omega) hn hj hk rfl
  have hbyte0 : (serialise words count s.bb)[4 * j.val] = byteK 0 words[j.val] := hbyte 0 (by decide)
  rw [State.bbWord, State.storeBytes_bb, hbyte0, hbyte 1 (by decide), hbyte 2 (by decide), hbyte 3 (by decide),
    be32_byteK]

/-- R95: `W2B M` and then `B2W` of as many words. -/
theorem w2b_b2w_round_trip {s : State} (hf : s.fault = false) (hm : s.mlen.toNat ≤ 16) :
    ∃ t u, exec (.w2b 0) s = .next t ∧ exec (.b2w (BitVec.ofNat 8 (4 * s.mlen.toNat))) t = .next u ∧
      u.mlen = s.mlen ∧ ∀ j : Fin 16, j.val < s.mlen.toNat → u.m[j] = s.m[j] := by
  have hlen : (BitVec.ofNat 8 (4 * s.mlen.toNat)).toNat = 4 * s.mlen.toNat := Nat.mod_eq_of_lt (by omega)
  have hb2w := exec_b2w_of_words (s := s.storeBytes (serialise s.m s.mlen.toNat s.bb))
    (len := BitVec.ofNat 8 (4 * s.mlen.toNat)) hf (by omega) (by omega)
  rw [hlen, Nat.mul_div_cancel_left _ (by decide)] at hb2w
  refine ⟨_, _, exec_w2b_m hf, hb2w, BitVec.eq_of_toNat_eq (State.loadWords_mlen_toNat _ hm), fun j hj => ?_⟩
  calc _ = (s.storeBytes (serialise s.m s.mlen.toNat s.bb)).bbWord j :=
        (State.loadedWords_getElem _ _ j j.isLt).trans (if_pos hj)
    _ = s.m[j] := s.bbWord_storeBytes_serialise s.m j j.isLt hj

/-- R95: `B2W` and then `W2B M`. -/
theorem b2w_w2b_round_trip {s : State} {len : BitVec 8} (hf : s.fault = false) (hlen : len.toNat ≤ 64)
    (h4 : len.toNat % 4 = 0) :
    ∃ t u, exec (.b2w len) s = .next t ∧ exec (.w2b 0) t = .next u ∧ u.bb = s.bb := by
  refine ⟨_, _, exec_b2w_of_words hf hlen h4, exec_w2b_m (s := s.loadWords (len.toNat / 4)) hf, ?_⟩
  rw [s.loadWords_mlen_toNat (by omega)]
  exact s.serialise_loadedWords _

/-- Settles O43: the two laws of the functions, the two of the commands. -/
theorem codecRoundTrips : Obligations.CodecRoundTrips := by
  refine ⟨bytesToWords_wordsToBytes, fun bs h4 => ?_, fun s => w2b_b2w_round_trip, fun s len => b2w_w2b_round_trip⟩
  exact ⟨_, bytesToWords_of_words h4, wordsToBytes_groupWords bs h4⟩

/-! ## The commands compute the functions -/

/-- R91, R92: the words `B2W` takes from `BB` are those of its first bytes: written back they are these bytes. -/
theorem State.bytesToWords_bb_take (s : State) {count : Nat} (h : count ≤ 16) :
    bytesToWords (s.bb.toList.take (4 * count)) = some ((s.loadedWords count).toList.take count) := by
  rw [← bytesToWords_wordsToBytes, ← serialise_toList_take _ s.bb h (by omega), s.serialise_loadedWords]

/-- Settles O44: `B2W` faults where the length is no multiple of 4, and otherwise loads the words of
`State.bytesToWords_bb_take`. -/
theorem b2wRefinesBytesToWords : Obligations.B2wRefinesBytesToWords := by
  intro s t len hf hlen h
  have hlength : (s.bb.toList.take len.toNat).length = len.toNat := by simp; omega
  rw [bytesToWords_eq_none_iff, hlength]
  obtain ⟨hf', _⟩ | ⟨_, h64, _⟩ | ⟨_, _, h4, rfl⟩ | ⟨_, _, h4, rfl⟩ := execB2w_cases h
  · exact absurd (hf.symm.trans hf') Bool.false_ne_true
  · omega
  · exact ⟨iff_of_true h4 rfl, fun hft => absurd hft.symm Bool.false_ne_true⟩
  · have hwords := s.bytesToWords_bb_take (count := len.toNat / 4) (by omega)
    rw [Nat.mul_div_cancel' (Nat.dvd_of_mod_eq_zero h4)] at hwords
    refine ⟨iff_of_false (not_not.mpr h4) (by simp [hf]), fun _ => ?_⟩
    rw [hwords, s.loadWords_mlen_toNat (by omega), State.loadWords_m]

/-- Settles O45: `serialise_toList_take` of the words of `M` and of those of `H`. -/
theorem w2bRefinesWordsToBytes : Obligations.W2bRefinesWordsToBytes := by
  intro s t u hf hm hv ht hu
  obtain rfl : s.storeBytes _ = t := by injection (exec_w2b_m hf).symm.trans ht
  obtain rfl : s.storeBytes _ = u := by injection (exec_w2b_h hf hv).symm.trans hu
  refine ⟨serialise_toList_take s.m s.bb hm (by omega), ?_⟩
  have hbytes := serialise_toList_take s.h s.bb (le_refl 8) (by decide)
  rwa [List.take_of_length_le (l := s.h.toList) (by simp)] at hbytes

end Sys2Proof.Machine

/-! PROOFS for the padder/parser family (spec 41_padder_parser.md): `pad` piece by piece (R111, R112, R115),
`parseBlocks` word by word (R113), and from both where `digest` is defined (R140). -/

namespace Sys2Proof.Machine

/-! ## `pad` -/

/-- R115: the domain of `pad`. -/
theorem pad_eq_none_iff (msg : List Byte) : pad msg = none ↔ 2 ^ 61 ≤ msg.length := by
  rw [pad]
  split
  next h => exact iff_of_false (Option.some_ne_none _) (Nat.not_le_of_lt h)
  next h => exact iff_of_true rfl (Nat.le_of_not_lt h)

/-- R111: within the domain, the four pieces. -/
theorem pad_eq_some {msg p : List Byte} (h : pad msg = some p) :
    msg.length < 2 ^ 61 ∧
      p = msg ++ [0x80] ++ List.replicate (padZeros msg.length) 0 ++ lengthSuffix msg.length := by
  rw [pad] at h
  split at h
  next hlen => exact ⟨hlen, (Option.some.inj h).symm⟩
  next => cases h

/-- R111: the zero bytes reach 56 mod 64. -/
theorem padZeros_mod (L : Nat) : (L + 1 + padZeros L) % 64 = 56 := by
  unfold padZeros
  omega

theorem padZeros_lt (L : Nat) : padZeros L < 64 := by
  unfold padZeros
  omega

@[simp] theorem length_lengthSuffix (L : Nat) : (lengthSuffix L).length = 8 := by
  simp [lengthSuffix]

/-- One more byte at the end is one more digit to base 256. -/
theorem bigEndian_append_singleton (bytes : List Byte) (b : Byte) :
    bigEndian (bytes ++ [b]) = bigEndian bytes * 256 + b.toNat :=
  List.foldl_concat ..

/-- The first `n` of the eight big-endian bytes of `x` hold what is left of `x` without its low `64 - 8n` bits. -/
theorem bigEndian_leading_bytes (x : BitVec 64) (n : Nat) (hn : n ≤ 8) :
    bigEndian ((List.range n).map fun k => x.extractLsb' (56 - 8 * k) 8) = x.toNat / 2 ^ (64 - 8 * n) := by
  induction n with
  | zero => exact (Nat.div_eq_of_lt x.isLt).symm
  | succ n ih =>
    have hhigh : x.toNat / 2 ^ (64 - 8 * n) = x.toNat / 2 ^ (56 - 8 * n) / 256 := by
      rw [Nat.div_div_eq_div_mul, show 64 - 8 * n = 56 - 8 * n + 8 by omega, pow_add]
      rfl
    rw [List.range_succ, List.map_append, List.map_singleton, bigEndian_append_singleton, ih (by omega), hhigh,
      BitVec.extractLsb'_toNat, Nat.shiftRight_eq_div_pow, show 64 - 8 * (n + 1) = 56 - 8 * n by omega]
    exact Nat.div_add_mod' _ _

/-- R111, R115: below the bound the bit length fits its eight bytes. -/
theorem bigEndian_lengthSuffix {L : Nat} (hL : L < 2 ^ 61) : bigEndian (lengthSuffix L) = 8 * L := by
  rw [lengthSuffix, bigEndian_leading_bytes _ 8 (le_refl 8), BitVec.toNat_ofNat]
  omega

/-- R112: the least multiple of 64 that has room for the message, the `0x80` byte and the length. -/
theorem length_of_pad {msg p : List Byte} (h : pad msg = some p) : p.length = 64 * ((msg.length + 8) / 64 + 1) := by
  obtain ⟨_, rfl⟩ := pad_eq_some h
  have hmod := padZeros_mod msg.length
  have hlt := padZeros_lt msg.length
  simp only [List.length_append, List.length_singleton, List.length_replicate, length_lengthSuffix]
  omega

/-- Settles O48: fewer zero bytes than `padZeros`, itself below 64, do not reach 56 mod 64 again. -/
theorem padShape : Obligations.PadShape := by
  refine ⟨pad_eq_none_iff, fun msg p h => ?_⟩
  obtain ⟨hL, hp⟩ := pad_eq_some h
  have hmod := padZeros_mod msg.length
  have hlt := padZeros_lt msg.length
  have hlength := length_of_pad h
  exact ⟨⟨_, _, hp, hmod, fun y hy => by omega, length_lengthSuffix _, bigEndian_lengthSuffix hL⟩, hlength, by omega⟩

/-! ## `parseBlocks` -/

/-- R113: the domain of `parseBlocks`; a whole number of blocks is a whole number of words (R91). -/
theorem parseBlocks_eq_none_iff (p : List Byte) : parseBlocks p = none ↔ p.length % 64 ≠ 0 := by
  rw [parseBlocks]
  split
  next h => rw [Option.map_eq_none_iff, bytesToWords_eq_none_iff]; omega
  next h => exact iff_of_true rfl h

/-- R113: within the domain, the words of the bytes in runs of 16. -/
theorem parseBlocks_eq_some {p : List Byte} {bs : List Block} (h : parseBlocks p = some bs) :
    p.length % 64 = 0 ∧ bs = groupBlocks (groupWords p) := by
  rw [parseBlocks] at h
  split at h
  next h64 =>
    rw [bytesToWords_of_words (by omega)] at h
    exact ⟨h64, (Option.some.inj h).symm⟩
  next => cases h

/-- R91: four bytes a word. -/
theorem length_groupWords {bs : List Byte} (h4 : bs.length % 4 = 0) : 4 * (groupWords bs).length = bs.length := by
  rw [← length_wordsToBytes, wordsToBytes_groupWords bs h4]

/-- R91: word `i` is assembled from the four bytes at `4i`: turned back into bytes (R95) it gives these. -/
theorem groupWords_getElem {bs : List Byte} (h4 : bs.length % 4 = 0) {i : Nat} (hi : i < (groupWords bs).length)
    {b0 b1 b2 b3 : Byte} (h0 : bs[4 * i]? = some b0) (h1 : bs[4 * i + 1]? = some b1) (h2 : bs[4 * i + 2]? = some b2)
    (h3 : bs[4 * i + 3]? = some b3) : (groupWords bs)[i] = be32 b0 b1 b2 b3 := by
  have hbyte : ∀ k < 4, ∀ b, bs[4 * i + k]? = some b → byteK k (groupWords bs)[i] = b := by
    intro k hk b hb
    rw [← wordsToBytes_groupWords bs h4] at hb
    obtain ⟨hlt, rfl⟩ := List.getElem?_eq_some_iff.mp hb
    have hword : (4 * i + k) / 4 = i := by omega
    have hplace : (4 * i + k) % 4 = k := by omega
    simp only [wordsToBytes_getElem, hword, hplace]
  rw [← be32_byteK (groupWords bs)[i], hbyte 0 (by decide) b0 h0, hbyte 1 (by decide) b1 h1,
    hbyte 2 (by decide) b2 h2, hbyte 3 (by decide) b3 h3]

/-- R113: a whole block in front of the words is the first block. -/
theorem groupBlocks_block_append (b : Block) (ws : List Word) :
    groupBlocks (b.toList ++ ws) = b :: groupBlocks ws := by
  obtain ⟨⟨l⟩, hl⟩ := b
  match l, hl with
  | [_, _, _, _, _, _, _, _, _, _, _, _, _, _, _, _], _ => rfl

/-- R113: 16 words a block. -/
theorem length_groupBlocks {n : Nat} {ws : List Word} (h : ws.length = 16 * n) : (groupBlocks ws).length = n := by
  induction n generalizing ws with
  | zero =>
    obtain rfl := List.length_eq_zero_iff.mp h
    rfl
  | succ n ih =>
    have hfirst : (ws.take 16).toArray.size = 16 := by simp; omega
    rw [← ws.take_append_drop 16, show ws.take 16 = (Vector.mk _ hfirst).toList from rfl, groupBlocks_block_append,
      List.length_cons, ih (by simp; omega)]

/-- R113: block `t` is the run of 16 words from `16t`. -/
theorem groupBlocks_getElem_toList (ws : List Word) {t : Nat} (ht : t < (groupBlocks ws).length) :
    (groupBlocks ws)[t].toList = (ws.drop (16 * t)).take 16 := by
  induction ws using groupBlocks.induct generalizing t with
  | case1 w0 w1 w2 w3 w4 w5 w6 w7 w8 w9 w10 w11 w12 w13 w14 w15 rest ih =>
    cases t with
    | zero => rfl
    | succ t => exact ih (Nat.lt_of_succ_lt_succ ht)
  | case2 ws hws =>
    simp [groupBlocks] at ht

/-- R113: word `j` of block `t`. -/
theorem groupBlocks_getElem (ws : List Word) {t j : Nat} (ht : t < (groupBlocks ws).length) (hj : j < 16) :
    ws[16 * t + j]? = some (groupBlocks ws)[t][j] := by
  rw [← Vector.getElem_toList, ← List.getElem?_eq_getElem, groupBlocks_getElem_toList,
    List.getElem?_take_of_lt hj, List.getElem?_drop]
  rwa [Vector.length_toList]

/-- Settles O49: the word by `groupBlocks_getElem`, its bytes by `groupWords_getElem`. -/
theorem parseBlocksWordwise : Obligations.ParseBlocksWordwise := by
  refine ⟨parseBlocks_eq_none_iff, fun p bs h => ?_⟩
  obtain ⟨h64, rfl⟩ := parseBlocks_eq_some h
  have h4 : p.length % 4 = 0 := by omega
  have hwords := length_groupWords h4
  have hblocks := length_groupBlocks (n := p.length / 64) (ws := groupWords p) (by omega)
  refine ⟨by omega, fun t ht j b0 b1 b2 b3 h0 h1 h2 h3 => ?_⟩
  obtain ⟨hi, hword⟩ := List.getElem?_eq_some_iff.mp (groupBlocks_getElem _ ht j.isLt)
  have hplace : 64 * t + 4 * j.val = 4 * (16 * t + j.val) := by omega
  rw [hplace] at h0 h1 h2 h3
  exact hword.symm.trans (groupWords_getElem h4 hi h0 h1 h2 h3)

/-! ## `digest` -/

/-- R113, R112: what `pad` gives is a whole number of blocks. -/
theorem exists_parseBlocks_of_pad {msg p : List Byte} (h : pad msg = some p) : ∃ bs, parseBlocks p = some bs := by
  refine Option.ne_none_iff_exists'.mp fun hnone => (parseBlocks_eq_none_iff p).mp hnone ?_
  rw [length_of_pad h, Nat.mul_mod_right]

/-- R140: within the domain of `pad`, the serialised fold of the blocks. -/
theorem digest_of_pad {msg p : List Byte} (h : pad msg = some p) :
    ∃ bs, parseBlocks p = some bs ∧ digest msg = some (wordsToBytes (chain bs).toList) := by
  obtain ⟨bs, hbs⟩ := exists_parseBlocks_of_pad h
  exact ⟨bs, hbs, by simp only [digest, h, hbs, Option.bind_some, Option.map_some]⟩

/-- R140: beyond it, no digest. -/
theorem digest_of_pad_eq_none {msg : List Byte} (h : pad msg = none) : digest msg = none := by
  rw [digest, h, Option.bind_none]

/-- Settles O52: `digest` has a result where `pad` has one, the bytes of eight words. -/
theorem digestIsDefined : Obligations.DigestIsDefined := by
  intro msg
  rw [← pad_eq_none_iff]
  cases h : pad msg with
  | none => simp [digest_of_pad_eq_none h]
  | some p =>
    obtain ⟨bs, _, hdigest⟩ := digest_of_pad h
    simp [hdigest]

end Sys2Proof.Machine

/-! PROOFS for the schedule expander family (spec 42_schedule_expander.md): the command `EXPAND` (R122) and the linearity
of its two mixing functions (R124). -/

namespace Sys2Proof.Machine

/-! ## `EXPAND` -/

/-- R122: `EXPAND` of words that are not a whole Block. -/
theorem exec_expand_of_part_block {s : State} (hf : s.fault = false) (h0 : s.mlen ≠ 0) (h16 : s.mlen ≠ 16) :
    exec .expand s = .next (s.latch .eLen (encode .expand)) := by
  rw [exec, execExpand, State.ifUnlocked_of_unlocked s _ hf, if_neg h0, if_pos h16, State.raise_of_unlocked s _ _ hf]

/-- Settles O9: one equation of `EXPAND` per case of `MLEN`, the Schedule position by position. -/
theorem expandBuildsSchedule : Obligations.ExpandBuildsSchedule := by
  refine ⟨by decide, fun c hopc hc => ?_, fun s hf =>
    ⟨exec_expand_of_empty hf, exec_expand_of_part_block hf, fun hm => ?_⟩⟩
  · exact exists_illegal_of_opcField (i := .expand) (by rintro ⟨⟩ <;> simp [Instr.opcode]) hopc hc
  · exact ⟨expand s.m, exec_expand_of_full hf hm, fun i => expand_getElem_lt s.m i i.isLt,
      fun n => expand_getElem_add s.m n n.isLt⟩

/-! ## The mixing functions -/

/-- R16: a shift moves each bit on its own. -/
theorem shr_xor (x y : Word) (n : Nat) : shr (x ^^^ y) n = shr x n ^^^ shr y n :=
  BitVec.ushiftRight_xor_distrib x y n

/-- R16: so does a rotation. -/
theorem rotr_xor (x y : Word) {r : Nat} (hr : r < 32) : rotr (x ^^^ y) r = rotr x r ^^^ rotr y r := by
  ext i hi
  simp only [← BitVec.getLsbD_eq_getElem, BitVec.getLsbD_xor, rotr_getLsbD _ r i hr hi]

/-- The shape `ssig0` and `ssig1` share (R17) is linear because each of its three terms is. -/
theorem rotr_xor_rotr_xor_shr_xor (x y : Word) {p q : Nat} (n : Nat) (hp : p < 32) (hq : q < 32) :
    rotr (x ^^^ y) p ^^^ rotr (x ^^^ y) q ^^^ shr (x ^^^ y) n =
      (rotr x p ^^^ rotr x q ^^^ shr x n) ^^^ (rotr y p ^^^ rotr y q ^^^ shr y n) := by
  rw [rotr_xor x y hp, rotr_xor x y hq, shr_xor]
  ac_rfl

theorem ssig0_xor (x y : Word) : ssig0 (x ^^^ y) = ssig0 x ^^^ ssig0 y :=
  rotr_xor_rotr_xor_shr_xor x y 3 (by decide) (by decide)

theorem ssig1_xor (x y : Word) : ssig1 (x ^^^ y) = ssig1 x ^^^ ssig1 y :=
  rotr_xor_rotr_xor_shr_xor x y 10 (by decide) (by decide)

/-- Settles O47: linearity, and the values on the two constant words by computation. -/
theorem scheduleSigmasLinear : Obligations.ScheduleSigmasLinear :=
  ⟨fun x y => ⟨ssig0_xor x y, ssig1_xor x y⟩, by decide⟩

end Sys2Proof.Machine

/-! PROOFS for the compressor family (spec 43_compressor.md): `INIT` (R131), `COMPRESS` (R134), the bit functions of a
round (R135), the host program that computes a digest (R140, R141) and the hexadecimal text (R142). -/

namespace Sys2Proof.Machine

/-! ## `INIT` -/

/-- Settles O10: the H0 table is R33's, word by word. -/
theorem initCreatesHashState : Obligations.InitCreatesHashState := by
  refine ⟨by decide, fun c hopc hc => ?_, fun s hf => ?_⟩
  · exact exists_illegal_of_opcField (i := .init) (by rintro ⟨⟩ <;> simp [Instr.opcode]) hopc hc
  · rw [exec_init hf, Rom.h0]
    rfl

/-- Settles O16: `INIT` writes `H` and `HV`, `EXPAND` reads and writes neither. -/
theorem initAndExpandCommute : Obligations.InitAndExpandCommute := by
  intro s hf hm
  exact ⟨_, _, _, exec_init hf, exec_expand_of_full (s := s.createHash Rom.h0) hf hm, exec_expand_of_full hf hm,
    exec_init (s := s.loadSchedule (expand s.m)) hf, hf, rfl, rfl⟩

/-! ## `COMPRESS` -/

/-- R134: `COMPRESS` without a HashState or without a Schedule. -/
theorem exec_compress_of_invalid {s : State} (hf : s.fault = false) (h : s.hv = false ∨ s.wv = false) :
    exec .compress s = .next (s.latch .eSeq (encode .compress)) := by
  rw [exec, execCompress, State.ifUnlocked_of_unlocked s _ hf, if_pos h, State.raise_of_unlocked s _ _ hf]

/-- R133: round `i` uses `K[i]` and word `i` of the Schedule. -/
theorem roundsTo_succ (w : Schedule) (v : HashState) {i : Nat} (hi : i < 64) :
    roundsTo w v (i + 1) = compressRound Rom.k[i] w[i] (roundsTo w v i) :=
  dif_pos hi

/-- Settles O11: the sequence is `roundsTo`, its last element what `compressRounds` computes. -/
theorem compressFoldsSchedule : Obligations.CompressFoldsSchedule := by
  refine ⟨by decide, fun c hopc hc => ?_, fun s hf => ⟨exec_compress_of_invalid hf, fun hh hw => ?_⟩⟩
  · exact exists_illegal_of_opcField (i := .compress) (by rintro ⟨⟩ <;> simp [Instr.opcode]) hopc hc
  · refine ⟨roundsTo s.w s.h, rfl, fun i => ⟨_, _, rfl, rfl, roundsTo_succ s.w s.h i.isLt⟩, ?_⟩
    rw [exec_compress_of_valid hf hh hw, compressBlock, compressRounds_eq_roundsTo, addState]
    rfl

/-! ## `ch` and `maj` -/

/-- R135: `ch` chooses each bit of `f` or `g` by that of `e`. -/
theorem ch_getLsbD (e f g : Word) (i : Nat) :
    (ch e f g).getLsbD i = if e.getLsbD i then f.getLsbD i else g.getLsbD i := by
  have key : ∀ a b c : Bool, (c ^^ (a && (b ^^ c))) = if a then b else c := by decide
  simp only [ch, BitVec.getLsbD_xor, BitVec.getLsbD_and, key]

/-- R135: `maj` takes a vote on each bit. -/
theorem maj_getLsbD (a b c : Word) (i : Nat) :
    (maj a b c).getLsbD i = decide (2 ≤ (a.getLsbD i).toNat + (b.getLsbD i).toNat + (c.getLsbD i).toNat) := by
  have key : ∀ a b c : Bool, (a && b || a && c || b && c) = decide (2 ≤ a.toNat + b.toNat + c.toNat) := by decide
  simp only [maj, BitVec.getLsbD_or, BitVec.getLsbD_and, key]

theorem ch_eq_xor (e f g : Word) : ch e f g = (e &&& f) ^^^ (~~~e &&& g) := by
  have key : ∀ a b c : Bool, (if a then b else c) = ((a && b) ^^ (!a && c)) := by decide
  refine BitVec.eq_of_getLsbD_eq fun i hi => ?_
  simp only [ch_getLsbD, key, BitVec.getLsbD_xor, BitVec.getLsbD_and, BitVec.getLsbD_not, hi, decide_true,
    Bool.true_and]

theorem maj_eq_or (a b c : Word) : maj a b c = ((a ||| b) &&& c) ||| (a &&& b) := by
  rw [maj, BitVec.or_assoc, BitVec.or_comm, ← BitVec.and_or_distrib_right]

theorem maj_eq_xor (a b c : Word) : maj a b c = (a &&& b) ^^^ (a &&& c) ^^^ (b &&& c) := by
  have key : ∀ a b c : Bool, (a && b || a && c || b && c) = ((a && b) ^^ (a && c) ^^ (b && c)) := by decide
  refine BitVec.eq_of_getLsbD_eq fun i _ => ?_
  simp only [maj, BitVec.getLsbD_or, BitVec.getLsbD_xor, BitVec.getLsbD_and, key]

/-- Settles O46: the forms and the bits, one lemma each. -/
theorem choiceAndMajorityForms : Obligations.ChoiceAndMajorityForms :=
  fun x y z => ⟨ch_eq_xor x y z, maj_eq_or x y z, maj_eq_xor x y z,
    fun i => ⟨ch_getLsbD x y z i, maj_getLsbD x y z i⟩⟩

/-! ## Programs of accepted writes -/

/-- From `s` the core performs the writes `ts` and reaches `t`, not locked, with `rest` still to perform; every `err`
is 0. -/
structure AcceptedRun (ts : List Transaction) (rest : List HostEvent) (s t : State) : Prop where
  run : core.run ts.length s = .next t
  unlocked : t.fault = false
  pending : t.pending = rest
  responses : t.responses = s.responses ++ List.replicate ts.length (.wr false)

theorem AcceptedRun.nil {s : State} {rest : List HostEvent} (hf : s.fault = false) (hp : s.pending = rest) :
    AcceptedRun [] rest s s :=
  ⟨rfl, hf, hp, (List.append_nil _).symm⟩

theorem AcceptedRun.append {ts us : List Transaction} {rest rest' : List HostEvent} {s t u : State}
    (h : AcceptedRun ts rest s t) (h' : AcceptedRun us rest' t u) : AcceptedRun (ts ++ us) rest' s u where
  run := by rw [List.length_append, core_run_add h.run, h'.run]
  unlocked := h'.unlocked
  pending := h'.pending
  responses := by
    rw [h'.responses, h.responses, List.append_assoc, List.replicate_append_replicate, List.length_append]

/-- One step answered with `err = 0`. -/
theorem AcceptedRun.of_step {tr : Transaction} {rest : List HostEvent} {s t : State}
    (h : step s = .next (t.respond (.wr false))) (hf : t.fault = false) (hp : t.pending = rest)
    (hr : t.responses = s.responses) : AcceptedRun [tr] rest s (t.respond (.wr false)) where
  run := core_run_succ h 0
  unlocked := hf
  pending := hp
  responses := congrArg (· ++ _) hr

/-- R151: a command that leaves an unlocked core unlocked is answered with `err = 0`. -/
theorem AcceptedRun.of_exec {i : Instr} {rest : List HostEvent} {s t : State} (hf : s.fault = false)
    (hp : s.pending = .transaction (asm i) :: rest) (hwf : i.wellFormed = true)
    (ht : exec i (s.issued rest) = .next t) (hft : t.fault = false) :
    AcceptedRun [asm i] rest s (t.respond (.wr false)) := by
  obtain ⟨hpending, hresponses⟩ := exec_port i _ _ ht
  have hstep := step_of_command hf hp (decode_eq_command_iff.2 ⟨rfl, hwf⟩) ht
  rw [hft] at hstep
  exact .of_step hstep hft hpending hresponses

/-- R150: `RST` is accepted from any state. -/
theorem AcceptedRun.of_rst {rest : List HostEvent} {s : State} (hp : s.pending = .transaction (asm .rst) :: rest) :
    AcceptedRun [asm .rst] rest s ((s.issued rest).resetCore.respond (.wr false)) := by
  cases hf : s.fault with
  | false => exact .of_exec hf hp rfl (exec_rst _) rfl
  | true =>
    have hlocked : execWr 0x00 0x000000FF (s.issued rest) = launch .rst (s.issued rest) := by
      rw [execWr, State.issued_fault, hf]
      rfl
    exact .of_step ((step_of_pending s _ rest hp).trans hlocked) rfl rfl rfl

/-! ## One block -/

/-- R114: the Block of 64 bytes. -/
def blockWords (bytes : Vector Byte 64) : Block :=
  Vector.ofFn fun j : Fin 16 =>
    be32 bytes[4 * j.val] bytes[4 * j.val + 1] bytes[4 * j.val + 2] bytes[4 * j.val + 3]

@[simp] theorem length_putBlk (bytes : Vector Byte 64) : (putBlk bytes).length = 64 := by
  rw [putBlk, putB, List.length_ofFn, Vector.length_toList]

/-- R78: `PUTBLK` writes the bytes of the block in order. -/
theorem map_transaction_putBlk (bytes : Vector Byte 64) :
    (putBlk bytes).map HostEvent.transaction = byteWrites bytes (List.finRange 64) :=
  List.ext_getElem (by simp [byteWrites]) fun i _ _ => by
    simp only [putBlk, putB, byteWrites, List.getElem_map, List.getElem_ofFn, List.getElem_finRange, Reg.addr,
      Nat.zero_add, Fin.getElem_fin, Vector.getElem_toList, Fin.val_cast]

/-- R114: `PUTBLK` and `B2W 64` make `M` the Block of the bytes. -/
theorem acceptedRun_putBlk_b2w {bytes : Vector Byte 64} {rest : List HostEvent} {s : State} (hf : s.fault = false)
    (hp : s.pending = (putBlk bytes ++ [asm (.b2w 64)]).map .transaction ++ rest) :
    ∃ t, AcceptedRun (putBlk bytes ++ [asm (.b2w 64)]) rest s t ∧
      t.hv = s.hv ∧ t.h = s.h ∧ t.mlen = 16 ∧ t.m = blockWords bytes := by
  rw [List.map_append, map_transaction_putBlk, List.append_assoc] at hp
  obtain ⟨t, hrun, _, hmlen, hpending, hm, ht⟩ := blockLoadsInAnyOrder s bytes _ rest hf (.refl _) hp
  refine ⟨t, ⟨?_, ?_, hpending, ?_⟩, by rw [ht], by rw [ht], hmlen, ?_⟩
  · simpa using hrun
  · exact (congrArg State.fault ht).trans hf
  · simpa using congrArg State.responses ht
  · ext j hj : 1
    rw [blockWords, Vector.getElem_ofFn]
    exact hm ⟨j, hj⟩

/-- R78, R133: a pass of the loop folds one block into `H`. -/
theorem acceptedRun_block {bytes : Vector Byte 64} {rest : List HostEvent} {s : State} (hf : s.fault = false)
    (hv : s.hv = true) (hp : s.pending = (putBlk bytes ++ hashBlk).map .transaction ++ rest) :
    ∃ t, AcceptedRun (putBlk bytes ++ hashBlk) rest s t ∧
      t.hv = true ∧ t.h = compressBlock s.h (expand (blockWords bytes)) := by
  have hsplit : putBlk bytes ++ hashBlk = putBlk bytes ++ [asm (.b2w 64)] ++ [asm .expand] ++ [asm .compress] := by
    simp [hashBlk]
  rw [hsplit] at hp ⊢
  rw [List.map_append, List.map_append, List.append_assoc, List.append_assoc] at hp
  obtain ⟨t, hload, hvt, hht, hmlen, hm⟩ := acceptedRun_putBlk_b2w hf hp
  have hexpand := AcceptedRun.of_exec hload.unlocked hload.pending rfl
    (exec_expand_of_full (s := t.issued _) hload.unlocked hmlen) hload.unlocked
  have hcompress := AcceptedRun.of_exec hexpand.unlocked hexpand.pending rfl
    (exec_compress_of_valid (s := State.issued _ rest) hexpand.unlocked (hvt.trans hv) rfl) hexpand.unlocked
  refine ⟨_, (hload.append hexpand).append hcompress, hvt.trans hv, ?_⟩
  rw [← hm, ← hht]
  rfl

/-- R140, R141: block after block. -/
theorem acceptedRun_blocks {bs : List (Vector Byte 64)} {rest : List HostEvent} {s : State} (hf : s.fault = false)
    (hv : s.hv = true) (hp : s.pending = (bs.flatMap fun b => putBlk b ++ hashBlk).map .transaction ++ rest) :
    ∃ t, AcceptedRun (bs.flatMap fun b => putBlk b ++ hashBlk) rest s t ∧
      t.hv = true ∧ t.h = (bs.map blockWords).foldl (fun h b => compressBlock h (expand b)) s.h := by
  induction bs generalizing s with
  | nil => exact ⟨s, .nil hf hp, hv, rfl⟩
  | cons b bs ih =>
    rw [List.flatMap_cons, List.map_append, List.append_assoc] at hp
    obtain ⟨t, hfirst, hvt, hht⟩ := acceptedRun_block hf hv hp
    obtain ⟨u, hothers, hvu, hhu⟩ := ih hfirst.unlocked hvt hfirst.pending
    refine ⟨u, hfirst.append hothers, hvu, ?_⟩
    rw [hhu, hht, List.map_cons, List.foldl_cons]

/-! ## The blocks of a padded message -/

/-- R113, R141: the blocks the program writes are those of `parseBlocks`. -/
theorem map_blockWords_byteBlocks {p : List Byte} {blocks : List Block} (h : parseBlocks p = some blocks) :
    (byteBlocks p).map blockWords = blocks := by
  obtain ⟨hlength, hwords⟩ := parseBlocksWordwise.2 p blocks h
  refine List.ext_getElem (by simp [byteBlocks]; omega) fun t _ ht => ?_
  ext j hj : 1
  have hend : 64 * t + 4 * j + 3 < p.length := by omega
  simp only [byteBlocks, blockWords, List.getElem_map, List.getElem_ofFn, Vector.getElem_ofFn, ← Nat.add_assoc]
  exact (hwords t ht ⟨j, hj⟩ _ _ _ _ (List.getElem?_eq_getElem _) (List.getElem?_eq_getElem _)
    (List.getElem?_eq_getElem _) (List.getElem?_eq_getElem _)).symm

/-! ## Reading the digest -/

/-- R152: reads of bytes of `BB` return them and change nothing. -/
theorem core_run_byteReads {s : State} (order : List (Fin 64)) {rest : List HostEvent}
    (hp : s.pending = (order.map fun i => .transaction (.rd (Reg.bb i).addr)) ++ rest) :
    core.run order.length s = .next
      { s with pending := rest,
               responses := s.responses ++ order.map fun i => .rd false (zext32 s.bb[i]) } := by
  induction order generalizing s with
  | nil => simp [← show s.pending = rest from hp]
  | cons i order ih =>
    have hread := State.readsAs_addr (s := s) (r := .bb i) rfl
      ((order.map fun i => .transaction (.rd (Reg.bb i).addr)) ++ rest)
    rw [show { s with pending := _ } = s from congrArg (fun q => { s with pending := q }) hp.symm] at hread
    rw [List.length_cons, core_run_succ hread, ih rfl]
    simp

/-- R78: `GETB n` reads the first `n` bytes of `BB`. -/
theorem core_run_getB {n : Nat} (hn : n ≤ 64) {s : State} {rest : List HostEvent}
    (hp : s.pending = (getB n hn).map .transaction ++ rest) :
    core.run n s = .next
      { s with pending := rest,
               responses := s.responses ++ (s.bb.toList.take n).map fun b => .rd false (zext32 b) } := by
  have hevents : (getB n hn).map HostEvent.transaction =
      (List.ofFn (Fin.castLE hn)).map fun i => .transaction (.rd (Reg.bb i).addr) := by
    simp only [getB, List.map_ofFn]
    rfl
  have hbytes : (List.ofFn (Fin.castLE hn)).map (fun i => Response.rd false (zext32 s.bb[i])) =
      (s.bb.toList.take n).map fun b => .rd false (zext32 b) :=
    List.ext_getElem (by simp [hn]) fun i _ _ => by simp
  rw [hevents] at hp
  simpa only [List.length_ofFn, hbytes] using core_run_byteReads _ hp

/-! ## The program -/

/-- R141: the writes of the program, all of it but the reads at its end. -/
def digestWrites (p : List Byte) : List Transaction :=
  [asm .init] ++ ((byteBlocks p).flatMap fun b => putBlk b ++ hashBlk) ++ [asm (.w2b 1)]

theorem digestTransactions_eq_append (p : List Byte) :
    digestTransactions p = digestWrites p ++ getB 32 (by decide) := by
  simp [digestTransactions, digestWrites, getDigest]

@[simp] theorem length_getB {n : Nat} (hn : n ≤ 64) : (getB n hn).length = n := List.length_ofFn

theorem length_digestTransactions (p : List Byte) : (digestTransactions p).length = (digestWrites p).length + 32 := by
  rw [digestTransactions_eq_append, List.length_append, length_getB]

/-- R140, R141: the writes leave the serialised fold of the blocks at the start of `BB`. -/
theorem acceptedRun_digestWrites {p : List Byte} {blocks : List Block} {rest : List HostEvent} {s : State}
    (hblocks : parseBlocks p = some blocks) (hf : s.fault = false)
    (hp : s.pending = (digestWrites p).map .transaction ++ rest) :
    ∃ t, AcceptedRun (digestWrites p) rest s t ∧ t.bb.toList.take 32 = wordsToBytes (chain blocks).toList := by
  rw [digestWrites, List.map_append, List.map_append, List.append_assoc, List.append_assoc] at hp
  have hinit := AcceptedRun.of_exec hf hp rfl (exec_init (s := s.issued _) hf) hf
  obtain ⟨t, hrun, hv, hh⟩ := acceptedRun_blocks hinit.unlocked rfl hinit.pending
  have hw2b := AcceptedRun.of_exec hrun.unlocked hrun.pending rfl
    (exec_w2b_h (s := t.issued _) hrun.unlocked hv) hrun.unlocked
  have hchain : t.h = chain blocks := by
    rw [hh, map_blockWords_byteBlocks hblocks]
    rfl
  have hbytes := serialise_toList_take t.h t.bb (le_refl 8) (by decide)
  rw [List.take_of_length_le (l := t.h.toList) (by simp)] at hbytes
  exact ⟨_, (hinit.append hrun).append hw2b, hchain ▸ hbytes⟩

/-- R141: after accepted writes that leave `d` at the start of `BB`, the reads of the program return it. -/
theorem core_run_digest {ts : List Transaction} {d : List Byte} {rest : List HostEvent} {s t : State}
    (h : AcceptedRun ts ((getB 32 (by decide)).map .transaction ++ rest) s t) (hd : t.bb.toList.take 32 = d) :
    ∃ u, core.run (ts.length + 32) s = .next u ∧ u.fault = false ∧ u.pending = rest ∧
      u.responses = s.responses ++ List.replicate ts.length (.wr false) ++ d.map fun b => .rd false (b.setWidth 32) :=
  ⟨_, (core_run_add h.run 32).trans (core_run_getB _ h.pending), h.unlocked, rfl, by rw [← h.responses, ← hd]⟩

/-- Settles O53: from an unlocked state the writes of the program and then its reads; begun with `RST` the writes start
from the reset state, which is unlocked. -/
theorem hostProgramComputesDigest : Obligations.HostProgramComputesDigest := by
  intro s msg p d rest hpad hdigest
  obtain ⟨blocks, hblocks, hd⟩ := digest_of_pad hpad
  obtain rfl : wordsToBytes (chain blocks).toList = d := Option.some.inj (hd.symm.trans hdigest)
  have hlength := length_digestTransactions p
  refine ⟨fun hf hp => ?_, fun hp => ?_⟩
  · rw [digestTransactions_eq_append, List.map_append, List.append_assoc] at hp
    obtain ⟨t, hwrites, hbytes⟩ := acceptedRun_digestWrites hblocks hf hp
    simpa only [hlength, Nat.add_sub_cancel] using core_run_digest hwrites hbytes
  · rw [digestTransactions_eq_append, List.map_cons, List.map_append, List.cons_append, List.append_assoc] at hp
    have hrst := AcceptedRun.of_rst hp
    obtain ⟨t, hwrites, hbytes⟩ := acceptedRun_digestWrites hblocks hrst.unlocked hrst.pending
    have hanswers : (digestTransactions p).length - 31 = ([asm .rst] ++ digestWrites p).length := by
      rw [hlength, List.length_append, List.length_singleton]
      omega
    have hsteps : (digestTransactions p).length + 1 = ([asm .rst] ++ digestWrites p).length + 32 := by omega
    rw [hanswers, hsteps]
    exact core_run_digest (hrst.append hwrites) hbytes

/-! ## The hexadecimal text -/

theorem hexDigit_mem (n : BitVec 4) : hexDigit n ∈ "0123456789abcdef".toList := by
  revert n
  decide

/-- R142: the sixteen digits differ. -/
theorem hexDigit_injective : Function.Injective hexDigit := by
  unfold Function.Injective
  decide

@[simp] theorem hexRender_nil : hexRender [] = [] := rfl

@[simp] theorem hexRender_cons (b : Byte) (bs : List Byte) :
    hexRender (b :: bs) = hexDigit (b.extractLsb' 4 4) :: hexDigit (b.extractLsb' 0 4) :: hexRender bs := rfl

theorem length_hexRender (bs : List Byte) : (hexRender bs).length = 2 * bs.length := by
  induction bs with
  | nil => rfl
  | cons b bs ih =>
    simp only [hexRender_cons, List.length_cons, ih]
    omega

/-- A byte is its two halves put together. -/
theorem append_nibbles (b : Byte) : b.extractLsb' 4 4 ++ b.extractLsb' 0 4 = b :=
  (BitVec.extractLsb'_append_extractLsb'_eq_extractLsb' rfl).trans BitVec.extractLsb'_eq_self

/-- R142: the two digits of a byte determine it. -/
theorem hexRender_injective : Function.Injective hexRender := by
  intro bs
  induction bs with
  | nil =>
    intro cs h
    cases cs with
    | nil => rfl
    | cons => cases h
  | cons b bs ih =>
    intro cs h
    cases cs with
    | nil => cases h
    | cons c cs =>
      simp only [hexRender_cons, List.cons.injEq, hexDigit_injective.eq_iff] at h
      obtain ⟨hhigh, hlow, hrest⟩ := h
      rw [← append_nibbles b, hhigh, hlow, append_nibbles, ih hrest]

/-- Settles O54: length and digits a byte at a time, and two distinct digits for distinct halves of a byte. -/
theorem hexRenderingLossless : Obligations.HexRenderingLossless := by
  refine ⟨length_hexRender, fun bs x hx => ?_, fun _ _ h => hexRender_injective h, by decide⟩
  simp only [hexRender, List.mem_flatMap, List.mem_cons, List.not_mem_nil, or_false] at hx
  obtain ⟨b, _, rfl | rfl⟩ := hx
  · exact hexDigit_mem _
  · exact hexDigit_mem _

end Sys2Proof.Machine

/-! PROOFS for the system family (spec 44_system.md): reset (R150) and the host's transactions, case by case (R151,
R152). -/

namespace Sys2Proof.Machine

/-! ## Reset -/

/-- R150: the two events that reset an instance, the second with the one word that decodes to `RST`. -/
theorem State.resets_iff {s : State} : s.resets ↔ ∃ rest, s.pending = .resetInput :: rest ∨
    s.pending = .transaction (.wr 0x00 0x000000FF) :: rest := by
  constructor
  · rintro (⟨rest, hp⟩ | ⟨c, rest, hp, hd⟩)
    · exact ⟨rest, .inl hp⟩
    · obtain ⟨rfl, _⟩ := decode_eq_command_iff.1 hd
      exact ⟨rest, .inr hp⟩
  · rintro ⟨rest, hp | hp⟩
    · exact State.resets_of_input hp
    · exact State.resets_of_rst hp

section LockedWrites

variable {s : State} (hf : s.fault = true) {a : Addr} {d : Word} {rest : List HostEvent}
include hf

/-- R54: a locked core recognises one write, that of the word of `RST`. -/
theorem step_of_locked_rst (hp : s.pending = .transaction (.wr 0x00 0x000000FF) :: rest) :
    step s = .next ((s.issued rest).resetCore.respond (.wr false)) := by
  rw [step_of_pending s _ rest hp, perform, execWr, State.issued_fault, if_pos hf, if_pos ⟨rfl, rfl⟩,
    launch_of_exec (exec_rst _)]
  rfl

/-- R54: it rejects every other write. -/
theorem step_of_locked_write (hp : s.pending = .transaction (.wr a d) :: rest)
    (hn : ¬ (a = 0x00 ∧ d = 0x000000FF)) : step s = .next ((s.issued rest).respond (.wr true)) := by
  rw [step_of_pending s _ rest hp, perform, execWr, State.issued_fault, if_pos hf, if_neg hn]

end LockedWrites

/-- R150: `RST` is performed from any state. -/
theorem step_of_rst {s : State} {rest : List HostEvent}
    (hp : s.pending = .transaction (.wr 0x00 0x000000FF) :: rest) :
    step s = .next ((s.issued rest).resetCore.respond (.wr false)) := by
  cases hf : s.fault with
  | true => exact step_of_locked_rst hf hp
  | false => exact step_of_command hf hp (decode_eq_command_iff.2 ⟨rfl, rfl⟩) (exec_rst _)

/-- Settles O12: `RST` and the reset input go to `State.resetCore`; by `step_flags` only a reset clears `FAULT`. -/
theorem rstClearsState : Obligations.RstClearsState := by
  refine ⟨rfl, fun _ => rfl, fun s rest hp => ⟨_, step_of_rst hp, rfl, rfl, rfl⟩,
    fun s rest hp => ⟨_, step_of_pending s _ rest hp, rfl, rfl, rfl⟩, ?_, ?_⟩
  · intro s c rest hp hc
    refine ⟨fun hf => step_of_locked_write hf hp fun ⟨_, hrst⟩ => hc hrst, fun hf hopc => ?_⟩
    obtain ⟨why, hd⟩ := exists_illegal_of_opcField (i := .rst) (by rintro ⟨⟩ <;> simp [Instr.opcode]) hopc hc
    exact step_of_illegal hf hp hd
  · intro s t hf h hft
    obtain ⟨hreset, _⟩ | ⟨_, _, hkeep⟩ := step_flags h
    · exact State.resets_iff.1 hreset
    · exact absurd (hft.symm.trans (hkeep hf)) Bool.false_ne_true

/-! ## `WR` -/

/-- R55: on an unlocked core a `WR` to any address but `CMD`, `OPA`, `AMT` and the bytes of `BB` is latched with
`E_ACC`. -/
theorem step_of_badWrite {s : State} {a : Addr} {d : Word} {rest : List HostEvent} (hf : s.fault = false)
    (hp : s.pending = .transaction (.wr a d) :: rest) (h0 : a ≠ 0x00) (h4 : a ≠ 0x04) (h5 : a ≠ 0x05)
    (hb : a.toNat < 0xC0) :
    step s = .next (((s.issued rest).latch .eAcc (accessInfo true a)).respond (.wr true)) := by
  obtain ⟨u, hu⟩ := writeReg_next a d (s.issued rest)
  rw [step_of_write hf hp, hu]
  obtain ⟨hr, _⟩ | ⟨hr, _⟩ | ⟨hr, _⟩ | ⟨i, hr, _⟩ | ⟨_, _, _, _, rfl⟩ := writeReg_cases hu
  · exact absurd (addr_of_regAt hr) h0
  · exact absurd (addr_of_regAt hr) h4
  · exact absurd (addr_of_regAt hr) h5
  · rw [addr_of_regAt hr, Reg.addr_bb_toNat] at hb
    omega
  · rw [(s.issued rest).raise_of_unlocked _ _ hf]

/-- R56: `data[7:0]` is the data modulo 256. -/
theorem low_byte_eq_ofNat (d : Word) : d.extractLsb' 0 8 = BitVec.ofNat 8 (d.toNat % 256) := by
  apply BitVec.eq_of_toNat_eq
  simp

/-- Settles O19: one equation of `step` per case of R151, the addresses of `BB` from `addr_of_regAt`. -/
theorem hostWriteOperation : Obligations.HostWriteOperation := by
  intro s a d rest hp
  refine ⟨?_, fun hf hn => step_of_locked_write hf hp hn, ?_, ?_, ?_, ?_, ?_, ?_⟩
  · rintro hf rfl rfl
    exact step_of_locked_rst hf hp
  · rintro hf rfl i hd
    obtain ⟨t, ht⟩ := exec_next i (s.issued rest)
    obtain ⟨_, hresponses⟩ := exec_port i _ _ ht
    refine ⟨t, ht, (step_of_command hf hp hd ht).trans ?_⟩
    rw [State.respond, hresponses]
    rfl
  · rintro hf rfl why hd
    exact step_of_illegal hf hp hd
  · rintro hf rfl
    exact step_of_writeOpa hf hp
  · rintro hf rfl
    exact step_of_writeAmt hf hp
  · intro hf i ha
    obtain rfl : a = (Reg.bb i).addr := BitVec.eq_of_toNat_eq (ha.trans (Reg.addr_bb_toNat i).symm)
    rw [← low_byte_eq_ofNat]
    exact step_of_writeByte hf hp
  · intro hf h0 h4 h5 hb
    have hinfo : accessInfo true a = BitVec.ofNat 32 (0x100 + a.toNat) := accessInfo_eq true a
    rw [← hinfo]
    exact step_of_badWrite hf hp h0 h4 h5 hb

/-! ## `RD` -/

/-- The number two fields put together are. -/
theorem toNat_append_eq_add {n m : Nat} (x : BitVec n) (y : BitVec m) :
    (x ++ y).toNat = 2 ^ m * x.toNat + y.toNat := by
  rw [BitVec.toNat_append, ← Nat.shiftLeft_add_eq_or_of_lt y.isLt, Nat.shiftLeft_eq, Nat.mul_comm]

/-- R31: `STATUS` as a number. -/
theorem State.statusWord_eq_ofNat (s : State) : s.statusWord =
    BitVec.ofNat 32 (256 * s.mlen.toNat + 4 * s.fault.toNat + 2 * s.wv.toNat + s.hv.toNat) := by
  apply BitVec.eq_of_toNat_eq
  have hmlen := s.mlen.isLt
  have hfault := s.fault.toNat_lt
  have hwv := s.wv.toNat_lt
  have hhv := s.hv.toNat_lt
  simp only [State.statusWord, toNat_append_eq_add, BitVec.toNat_ofBool, BitVec.toNat_ofNat]
  omega

/-- R32: `ERR` is zero above its code. -/
theorem State.errWord_eq_setWidth (s : State) : s.errWord = s.err.code.setWidth 32 := by
  unfold State.errWord
  cases s.err <;> rfl

/-- R52: `CMD` is write-only, and the reserved addresses name no register. -/
theorem State.regRead_of_unreadable (s : State) {a : Addr}
    (ha : a = 0x00 ∨ a = 0x07 ∨ (0x30 ≤ a.toNat ∧ a.toNat ≤ 0x3F)) : s.regRead a = none := by
  obtain rfl | hreserved := ha
  · exact s.regRead_addr .cmd
  · rw [State.regRead, (regAt_eq_none_iff a).2 hreserved]
    rfl

/-- R152: a read that finds nothing is an illegal access. -/
theorem step_of_badRead {s : State} {a : Addr} {rest : List HostEvent}
    (hp : s.pending = .transaction (.rd a) :: rest) (hr : s.regRead a = none) :
    step s = .next (((s.issued rest).raise .eAcc (accessInfo false a)).respond (.rd true 0)) := by
  have hr' : (s.issued rest).regRead a = none := (s.regRead_issued rest a).trans hr
  rw [step_of_pending s _ rest hp, perform, execRd, hr']

/-- Settles O20: each register is read at its own address; `CMD` and the reserved addresses are illegal accesses. -/
theorem hostReadOperation : Obligations.HostReadOperation := by
  intro s
  refine ⟨State.readsAs_addr (r := .status) (congrArg some s.statusWord_eq_ofNat),
    State.readsAs_addr (r := .err) (congrArg some s.errWord_eq_setWidth),
    State.readsAs_addr (r := .einfo) rfl, State.readsAs_addr (r := .opa) rfl, State.readsAs_addr (r := .amt) rfl,
    State.readsAs_addr (r := .res) rfl, fun i => State.readsAs_addr (r := .h i) rfl,
    fun i => State.readsAs_addr (r := .v i) rfl, fun i => State.readsAs_addr (r := .h0 i) rfl,
    fun i => State.readsAs_addr (r := .m i) rfl, fun i => State.readsAs_addr (r := .w i) rfl,
    fun i => State.readsAs_addr (r := .k i) rfl, fun i => State.readsAs_addr (r := .bb i) rfl,
    fun a rest ha hp => ?_⟩
  rw [step_of_badRead hp (s.regRead_of_unreadable ha)]
  refine ⟨fun hf => ?_, fun hf => ?_⟩
  · rw [(s.issued rest).raise_of_locked _ _ hf]
    rfl
  · have hinfo : accessInfo false a = BitVec.ofNat 32 a.toNat := by simp [accessInfo_eq]
    rw [(s.issued rest).raise_of_unlocked _ _ hf, hinfo]
    rfl

end Sys2Proof.Machine

/-! PROOFS for the exceptions family (spec 60_exceptions.md): fault entry (R166, R167), the complete cause table (R165) and
the information words it records (R161 to R164), the locked state (R168) and the return from it (R170). -/

namespace Sys2Proof.Machine

/-! ## Fault entry -/

/-- Settles O28: on an unlocked core a raise is `State.latch`. -/
theorem faultEntryLatchesCause : Obligations.FaultEntryLatchesCause := State.raise_of_unlocked

/-! ## What faults, and with which code -/

/-- R161 to R163: the code of the fault a command raises on an unlocked core; none when it is performed. -/
def State.commandFault (s : State) : Instr → Option ErrCode
  | .b2w len => if 64 < len.toNat then some .eOpc else if len.toNat % 4 ≠ 0 then some .eLen else none
  | .w2b src => if 1 < src.toNat then some .eOpc else if src.toNat = 1 ∧ s.hv = false then some .eSeq else none
  | .expand => if s.mlen = 0 then some .eSeq else if s.mlen ≠ 16 then some .eLen else none
  | .compress => if s.hv = false ∨ s.wv = false then some .eSeq else none
  | .rotr | .init | .rst => none

/-- On an unlocked core a command raises the fault `State.commandFault` names, or leaves the core unlocked. -/
theorem exec_fault_cases {i : Instr} {s t : State} (hf : s.fault = false) (h : exec i s = .next t) :
    (s.commandFault i = none ∧ t.fault = false) ∨
    ∃ e, s.commandFault i = some e ∧ t = s.latch e (encode i) := by
  have hlock : s.fault ≠ true := by simp [hf]
  cases i with
  | b2w len =>
    obtain ⟨hf', _⟩ | ⟨_, hlen, rfl⟩ | ⟨_, hlen, h4, rfl⟩ | ⟨_, hlen, h4, rfl⟩ := execB2w_cases h
    · exact absurd hf' hlock
    · exact .inr ⟨.eOpc, if_pos hlen, rfl⟩
    · exact .inr ⟨.eLen, (if_neg hlen.not_gt).trans (if_pos h4), rfl⟩
    · exact .inl ⟨(if_neg hlen.not_gt).trans (if_neg (not_not.2 h4)), hf⟩
  | w2b src =>
    obtain ⟨hf', _⟩ | ⟨_, hsrc, rfl⟩ | ⟨_, rfl, hv, rfl⟩ | ⟨_, rfl, rfl⟩ | ⟨_, rfl, hv, rfl⟩ := execW2b_cases h
    · exact absurd hf' hlock
    · exact .inr ⟨.eOpc, if_pos hsrc, rfl⟩
    · exact .inr ⟨.eSeq, by simp [State.commandFault, hv], rfl⟩
    · exact .inl ⟨by simp [State.commandFault], hf⟩
    · exact .inl ⟨by simp [State.commandFault, hv], hf⟩
  | rotr =>
    obtain ⟨hf', _⟩ | ⟨_, rfl⟩ := execRotr_cases h
    · exact absurd hf' hlock
    · exact .inl ⟨rfl, hf⟩
  | expand =>
    obtain ⟨hf', _⟩ | ⟨_, hm, rfl⟩ | ⟨_, h0, h16, rfl⟩ | ⟨_, hm, rfl⟩ := execExpand_cases h
    · exact absurd hf' hlock
    · exact .inr ⟨.eSeq, if_pos hm, rfl⟩
    · exact .inr ⟨.eLen, (if_neg h0).trans (if_pos h16), rfl⟩
    · exact .inl ⟨by simp [State.commandFault, hm], hf⟩
  | compress =>
    obtain ⟨hf', _⟩ | ⟨_, hv, rfl⟩ | ⟨_, hh, hw, rfl⟩ := execCompress_cases h
    · exact absurd hf' hlock
    · exact .inr ⟨.eSeq, if_pos hv, rfl⟩
    · exact .inl ⟨if_neg (by simp [hh, hw]), hf⟩
  | init =>
    obtain ⟨hf', _⟩ | ⟨_, rfl⟩ := execInit_cases h
    · exact absurd hf' hlock
    · exact .inl ⟨rfl, hf⟩
  | rst =>
    obtain rfl := execRst_cases h
    exact .inl ⟨rfl, rfl⟩

/-- R160: everything that faults on an unlocked core, with the code and the information word; `step_of_faultCause` and
`faultCause_of_step` say that a step latches exactly these. -/
inductive FaultCause (s : State) : HostEvent → ErrCode → Word → Prop where
  | badRead (a : Addr) (hr : s.regRead a = none) : FaultCause s (.transaction (.rd a)) .eAcc (accessInfo false a)
  | badWrite (a : Addr) (d : Word) (h0 : a ≠ 0x00) (h4 : a ≠ 0x04) (h5 : a ≠ 0x05) (hb : a.toNat < 0xC0) :
      FaultCause s (.transaction (.wr a d)) .eAcc (accessInfo true a)
  | illegalWord (c : Word) (why : Illegal) (hd : decode c = .illegal why) :
      FaultCause s (.transaction (.wr 0x00 c)) .eOpc c
  | command (i : Instr) (e : ErrCode) (hwf : i.wellFormed = true) (he : s.commandFault i = some e) :
      FaultCause s (.transaction (.wr 0x00 (encode i))) e (encode i)

/-- A fault of an unlocked core has a cause, which the step latches and answers with `err = 1`. -/
theorem faultCause_of_step {s t : State} (hf : s.fault = false) (h : step s = .next t) (hft : t.fault = true) :
    ∃ e rest code info r, s.pending = e :: rest ∧ FaultCause s e code info ∧ (r = .wr true ∨ r = .rd true 0) ∧
      t = ((s.issued rest).latch code info).respond r := by
  have hlock : s.fault ≠ true := by simp [hf]
  cases step_effect h with
  | badRead a rest hp hr =>
    rw [(s.issued rest).raise_of_unlocked _ _ hf]
    exact ⟨_, rest, _, _, _, hp, .badRead a hr, .inr rfl, rfl⟩
  | badWrite a d rest hp _ h0 h4 h5 hb => exact ⟨_, rest, _, _, _, hp, .badWrite a d h0 h4 h5 hb, .inl rfl, rfl⟩
  | illegalWord c why rest hp _ hd => exact ⟨_, rest, _, _, _, hp, .illegalWord c why hd, .inl rfl, rfl⟩
  | command c i u rest hp _ hd hu =>
    obtain ⟨rfl, hwf⟩ := decode_eq_command_iff.1 hd
    obtain ⟨_, hfu⟩ | ⟨e, he, rfl⟩ := exec_fault_cases (s := s.issued rest) hf hu
    · exact absurd (hfu.symm.trans hft) Bool.false_ne_true
    · exact ⟨_, rest, _, _, _, hp, .command i e hwf he, .inl rfl, rfl⟩
  | idle | read | lockedWrite | writeOpa | writeAmt | writeByte => exact absurd hft hlock
  | resetInput | lockedRst => cases hft

/-- Whatever has a cause is latched. -/
theorem step_of_faultCause {s : State} {e : HostEvent} {rest : List HostEvent} {code : ErrCode} {info : Word}
    (hf : s.fault = false) (hp : s.pending = e :: rest) (hc : FaultCause s e code info) :
    ∃ r, step s = .next (((s.issued rest).latch code info).respond r) := by
  cases hc with
  | badRead a hr =>
    have h := step_of_badRead hp hr
    rw [(s.issued rest).raise_of_unlocked _ _ hf] at h
    exact ⟨_, h⟩
  | badWrite a d h0 h4 h5 hb => exact ⟨_, step_of_badWrite hf hp h0 h4 h5 hb⟩
  | illegalWord c why hd => exact ⟨_, step_of_illegal hf hp hd⟩
  | command i code hwf he =>
    obtain ⟨t, ht⟩ := exec_next i (s.issued rest)
    have he' : (s.issued rest).commandFault i = some code := he
    obtain ⟨hnone, _⟩ | ⟨e', hsome, rfl⟩ := exec_fault_cases (s := s.issued rest) hf ht
    · cases hnone.symm.trans he'
    · cases hsome.symm.trans he'
      exact ⟨_, step_of_command hf hp (decode_eq_command_iff.2 ⟨rfl, hwf⟩) ht⟩

/-- Settles O30: a fault latches its cause in the state the event was issued in. -/
theorem faultsArePrecise : Obligations.FaultsArePrecise := by
  intro s t hf h hft
  obtain ⟨e, rest, code, info, r, hp, _, hr, rfl⟩ := faultCause_of_step hf h hft
  exact ⟨e, rest, r, hp, hr, rfl⟩

/-! ## The cause table -/

theorem State.regRead_eq_none_iff (s : State) (a : Addr) :
    s.regRead a = none ↔ a = 0x00 ∨ a = 0x07 ∨ (0x30 ≤ a.toNat ∧ a.toNat ≤ 0x3F) := by
  refine ⟨fun h => ?_, s.regRead_of_unreadable⟩
  cases hr : regAt a with
  | none => exact .inr ((regAt_eq_none_iff a).1 hr)
  | some r =>
    obtain rfl := addr_of_regAt hr
    rw [s.regRead_addr] at h
    cases r <;> cases h
    exact .inl rfl

/-- R165: the information word of an illegal `RD`. -/
theorem accessInfo_read (a : Addr) : accessInfo false a = BitVec.ofNat 32 a.toNat := by
  rw [accessInfo_eq, Bool.toNat_false, Nat.mul_zero, Nat.zero_add]

/-- R165: the information word of an illegal `WR`. -/
theorem accessInfo_write (a : Addr) : accessInfo true a = BitVec.ofNat 32 (0x100 + a.toNat) := accessInfo_eq true a

/-- R165, the row of a command: what `State.commandFault` says, with the command word as information. -/
theorem causeTable_of_command {s : State} (hm : s.mlen.toNat ≤ 16) (i : Instr) :
    causeTable s (.transaction (.wr 0x00 (encode i))) = (s.commandFault i).map (·, encode i) := by
  obtain ⟨hopc, harg, hrsv⟩ := encode_fields i
  simp only [causeTable, ← opcField_toNat, ← argField_toNat, ← rsvField_toNat, hopc, harg, hrsv]
  cases i with
  | b2w | w2b =>
    rw [State.commandFault, apply_ite (Option.map _), apply_ite (Option.map _)]
    rfl
  | expand =>
    have hpart : s.mlen ≠ 16 ↔ s.mlen.toNat ≤ 15 := by bv_omega
    rw [State.commandFault, apply_ite (Option.map _), apply_ite (Option.map _)]
    simp only [hpart]
    rfl
  | compress =>
    rw [State.commandFault, apply_ite (Option.map _)]
    rfl
  | rotr | init | rst => rfl

/-- R165, the row of an illegal word. -/
theorem causeTable_of_illegal (s : State) {c : Word} {why : Illegal} (hd : decode c = .illegal why) :
    causeTable s (.transaction (.wr 0x00 c)) = some (.eOpc, c) := by
  have hdesc := decode_eq_iff.1 hd
  simp only [causeTable, ← opcField_toNat, ← argField_toNat, ← rsvField_toNat]
  cases why with
  | reserved =>
    have h : (rsvField c).toNat ≠ 0 := fun h => hdesc (BitVec.eq_of_toNat_eq h)
    simp [h]
  | opcode =>
    obtain ⟨hrsv, hopc⟩ := hdesc
    simp only [legalOpcodes, List.mem_cons, List.not_mem_nil, or_false, not_or, BitVec.toNat_eq] at hopc
    simp_all
  | operand =>
    obtain ⟨hrsv, ⟨hopc, harg⟩ | ⟨hopc, harg⟩ | ⟨hopc, harg⟩⟩ := hdesc
    · simp [hrsv, hopc, harg]
    · simp [hrsv, hopc, harg]
    · have harg' : (argField c).toNat ≠ 0 := fun h => harg (BitVec.eq_of_toNat_eq h)
      simp only [List.mem_cons, List.not_mem_nil, or_false] at hopc
      obtain hopc | hopc | hopc | hopc | hopc := hopc <;> simp [hrsv, hopc, harg']

/-- R165: while `MLEN` is within its bound every row of the table is a cause. -/
theorem faultCause_of_causeTable {s : State} (hm : s.mlen.toNat ≤ 16) {e : HostEvent} {code : ErrCode} {info : Word}
    (h : causeTable s e = some (code, info)) : FaultCause s e code info := by
  match e with
  | .resetInput => cases h
  | .transaction (.rd a) =>
    rw [causeTable, ← accessInfo_read] at h
    split at h <;> cases h
    exact .badRead a (s.regRead_of_unreadable ‹_›)
  | .transaction (.wr a d) =>
    by_cases h0 : a = 0x00
    · subst h0
      cases hd : decode d with
      | illegal why =>
        rw [causeTable_of_illegal s hd] at h
        cases h
        exact .illegalWord _ why hd
      | command i =>
        obtain ⟨rfl, hwf⟩ := decode_eq_command_iff.1 hd
        rw [causeTable_of_command hm, Option.map_eq_some_iff] at h
        obtain ⟨e, he, h⟩ := h
        cases h
        exact .command i code hwf he
    · rw [causeTable, if_neg h0, ← accessInfo_write] at h
      split at h <;> cases h
      next hn =>
        simp only [not_or, not_le] at hn
        obtain ⟨h4, h5, hb⟩ := hn
        exact .badWrite a d h0 h4 h5 hb

/-- R165: and every cause has its row. -/
theorem causeTable_of_faultCause {s : State} (hm : s.mlen.toNat ≤ 16) {e : HostEvent} {code : ErrCode} {info : Word}
    (h : FaultCause s e code info) : causeTable s e = some (code, info) := by
  cases h with
  | badRead a hr => rw [causeTable, if_pos ((s.regRead_eq_none_iff a).1 hr), accessInfo_read]
  | badWrite a d h0 h4 h5 hb =>
    have hn : ¬ (a = 0x04 ∨ a = 0x05 ∨ 0xC0 ≤ a.toNat) := not_or.2 ⟨h4, not_or.2 ⟨h5, hb.not_ge⟩⟩
    rw [causeTable, if_neg h0, if_neg hn, accessInfo_write]
  | illegalWord c why hd => exact causeTable_of_illegal s hd
  | command i _ _ he =>
    rw [causeTable_of_command hm, he]
    rfl

/-- R32: without a fault `ERR` holds no fault code. -/
theorem State.flagsSound.err_of_unlocked {s : State} (hs : s.flagsSound) (hf : s.fault = false) : s.err = .noFault := by
  by_contra he
  exact absurd (hf.symm.trans (hs.2.1.2 he)) Bool.false_ne_true

/-- Settles O29: what has a row has a cause, which is latched; what is latched has a cause, so it has a row. -/
theorem completeCauseTable : Obligations.CompleteCauseTable := by
  intro s t e rest hs hf hp h
  refine ⟨fun hnone => ?_, fun code info hsome => ?_⟩
  · have hft : t.fault = false := by
      by_contra hft
      obtain ⟨e', rest', code, info, _, hp', hc, _⟩ := faultCause_of_step hf h (by simpa using hft)
      cases hp.symm.trans hp'
      cases hnone.symm.trans (causeTable_of_faultCause hs.1 hc)
    exact ⟨hft, (stepKeepsFlagsSound s t hs h).err_of_unlocked hft⟩
  · obtain ⟨r, hr⟩ := step_of_faultCause hf hp (faultCause_of_causeTable hs.1 hsome)
    cases h.symm.trans hr
    exact ⟨rfl, rfl, rfl⟩

/-! ## While the core is locked -/

/-- R168: a step that leaves a locked core locked changes no register. -/
theorem step_of_locked {s t : State} (hf : s.fault = true) (h : step s = .next t) (hft : t.fault = true) :
    t = { s with pending := t.pending, responses := t.responses } := by
  cases step_effect h with
  | badRead a rest =>
    rw [(s.issued rest).raise_of_locked _ _ hf]
    rfl
  | idle | read | lockedWrite => rfl
  | resetInput | lockedRst => cases hft
  | command _ _ _ _ _ hf' | illegalWord _ _ _ _ hf' | writeOpa _ _ _ hf' | writeAmt _ _ _ hf' | writeByte _ _ _ _ hf'
  | badWrite _ _ _ _ hf' => exact absurd (hf'.symm.trans hf) Bool.false_ne_true

/-- Settles O31: the registers by `step_of_locked`, the responses by the step of each transaction on a locked core. -/
theorem firstFaultWins : Obligations.FirstFaultWins := by
  intro s t hf h hft
  refine ⟨step_of_locked hf h hft, fun a d rest hp => ?_, fun a rest hp hr => ?_⟩
  · by_cases hrst : a = 0x00 ∧ d = 0x000000FF
    · obtain ⟨rfl, rfl⟩ := hrst
      cases h.symm.trans (step_of_locked_rst hf hp)
      cases hft
    · cases h.symm.trans (step_of_locked_write hf hp hrst)
      rfl
  · have hread := step_of_badRead hp hr
    rw [(s.issued rest).raise_of_locked _ _ hf] at hread
    cases h.symm.trans hread
    rfl

/-- R170, R171: both resets are accepted from every state and restore nothing. -/
theorem step_of_reset {s : State} {rest : List HostEvent}
    (hp : s.pending = .resetInput :: rest ∨ s.pending = .transaction (.wr 0x00 0x000000FF) :: rest) :
    ∃ t, step s = .next t ∧ t.sameInstance State.reset := by
  obtain hp | hp := hp
  · exact ⟨_, step_of_pending s _ rest hp, rfl⟩
  · exact ⟨_, step_of_rst hp, rfl⟩

/-- Settles O32: by `step_flags` only a reset clears `FAULT`; what it leaves is `step_of_reset`. -/
theorem onlyResetUnlocks : Obligations.OnlyResetUnlocks := by
  refine ⟨fun s t hf h hft => ?_, fun s rest => step_of_reset, fun s a d _ => State.readsAs_of_regRead⟩
  obtain ⟨hreset, _⟩ | ⟨_, _, hkeep⟩ := step_flags h
  · obtain ⟨rest, hp⟩ := State.resets_iff.1 hreset
    obtain ⟨u, hu, hsame⟩ := step_of_reset hp
    cases h.symm.trans hu
    exact ⟨⟨rest, hp⟩, hsame⟩
  · exact absurd (hft.symm.trans (hkeep hf)) Bool.false_ne_true

/-! ## The kinds of information word -/

/-- R28, R32: without a fault `EINFO` is 0. -/
theorem State.einfoSound_of_unlocked {s : State} (hs : s.flagsSound) (hf : s.fault = false) : s.einfoSound := by
  have he := hs.err_of_unlocked hf
  rw [State.einfoSound, he]
  exact hs.2.2 he

/-- R161, R162: the command word of a faulting command is of the kind its code records. -/
theorem State.einfoSound_of_commandFault {s : State} {i : Instr} {e : ErrCode} (hwf : i.wellFormed = true)
    (h : s.commandFault i = some e) : (s.latch e (encode i)).einfoSound := by
  cases i with
  | b2w len =>
    have hlen : len.toNat ≤ 64 := of_decide_eq_true hwf
    rw [State.commandFault, if_neg hlen.not_gt] at h
    split at h <;> cases h
    exact .inr ⟨len, hlen, ‹_›, rfl⟩
  | w2b src =>
    have hsrc : src.toNat ≤ 1 := of_decide_eq_true hwf
    rw [State.commandFault, if_neg hsrc.not_gt] at h
    split at h <;> cases h
    obtain ⟨hone, _⟩ := ‹src.toNat = 1 ∧ s.hv = false›
    obtain rfl : src = 1 := BitVec.eq_of_toNat_eq hone
    exact .inr (.inr rfl)
  | expand =>
    rw [State.commandFault] at h
    split at h
    · cases h
      exact .inl rfl
    · split at h <;> cases h
      exact .inl rfl
  | compress =>
    rw [State.commandFault] at h
    split at h <;> cases h
    exact .inr (.inl rfl)
  | rotr | init | rst => cases h

/-- R161 to R164: every cause records an information word of the kind its code asks for. -/
theorem FaultCause.einfoSound {s : State} {e : HostEvent} {code : ErrCode} {info : Word}
    (h : FaultCause s e code info) : (s.latch code info).einfoSound := by
  cases h with
  | badRead a => exact ⟨false, a, rfl⟩
  | badWrite a => exact ⟨true, a, rfl⟩
  | illegalWord c why hd => exact ⟨why, hd⟩
  | command i _ hwf he => exact State.einfoSound_of_commandFault hwf he

/-- Settles O37: an unlocked core holds no information word, a fault latches one of its kind, and a locked core keeps
the one it has. -/
theorem stepKeepsEinfoSound : Obligations.StepKeepsEinfoSound := by
  intro s t hflags hs h
  cases hft : t.fault with
  | false => exact State.einfoSound_of_unlocked (stepKeepsFlagsSound s t hflags h) hft
  | true =>
    cases hf : s.fault with
    | false =>
      obtain ⟨_, _, _, _, _, _, hc, _, rfl⟩ := faultCause_of_step hf h hft
      exact hc.einfoSound
    | true =>
      rw [step_of_locked hf h hft]
      exact hs

end Sys2Proof.Machine

/-! PROOFS for the reset family (spec 70_reset_and_hazards.md): the two ways to reset (R190) and the state they lead to
(R191). -/

namespace Sys2Proof.Machine

/-- Settles O33: both events take any state to its `State.resetCore`, of which only `RST` tells the host. -/
theorem resetInputEqualsRst : Obligations.ResetInputEqualsRst := by
  intro s t u ht hu
  have hinput := step_of_pending { s with pending := [.resetInput] } .resetInput [] rfl
  have hrst := step_of_rst (s := { s with pending := [.transaction (.wr 0x00 0x000000FF)] }) (rest := []) rfl
  cases ht.symm.trans hinput
  cases hu.symm.trans hrst
  exact ⟨rfl, rfl, rfl⟩

@[simp] theorem Reg.addr_h0_toNat (i : Fin 8) : (Reg.h0 i).addr.toNat = 0x18 + i.val :=
  Nat.mod_eq_of_lt (by omega)

@[simp] theorem Reg.addr_k_toNat (i : Fin 64) : (Reg.k i).addr.toNat = 0x80 + i.val :=
  Nat.mod_eq_of_lt (by omega)

/-- R38: after reset every readable register but the constants of the ROM (R35) holds zero. -/
theorem State.readReg_reset {r : Reg} (hcmd : r ≠ .cmd) (hh0 : ∀ i, r ≠ .h0 i) (hk : ∀ i, r ≠ .k i) :
    State.reset.readReg r = some 0 := by
  cases r with
  | cmd => exact absurd rfl hcmd
  | h0 i => exact absurd rfl (hh0 i)
  | k i => exact absurd rfl (hk i)
  | status | err | einfo | opa | amt | res => rfl
  | h i | v i | m i | w i => exact congrArg some (Vector.getElem_replicate i.isLt)
  | bb i => exact congrArg (some ∘ zext32) (Vector.getElem_replicate i.isLt)

/-- R51, R191: the same through the address map. -/
theorem State.regRead_reset {a : Addr} (hcmd : a.toNat ≠ 0x00)
    (hreserved : ¬ (a = 0x07 ∨ (0x30 ≤ a.toNat ∧ a.toNat ≤ 0x3F)))
    (hh0 : ¬ (0x18 ≤ a.toNat ∧ a.toNat ≤ 0x1F)) (hk : ¬ (0x80 ≤ a.toNat ∧ a.toNat ≤ 0xBF)) :
    State.reset.regRead a = some 0 := by
  obtain ⟨r, hr⟩ := Option.ne_none_iff_exists'.1 (mt (regAt_eq_none_iff a).1 hreserved)
  obtain rfl := addr_of_regAt hr
  rw [State.regRead_addr]
  refine State.readReg_reset ?_ ?_ ?_
  · rintro rfl
    exact hcmd rfl
  · rintro i rfl
    rw [Reg.addr_h0_toNat] at hh0
    omega
  · rintro i rfl
    rw [Reg.addr_k_toNat] at hk
    omega

/-- Settles O34: none of the addresses listed is `CMD`, reserved or in the ROM, so `State.regRead_reset` reads zero. -/
theorem resetState : Obligations.ResetState := by
  refine ⟨fun a hlow hhigh h7 => ?_, fun a hlow hhigh => ?_, fun a hlow hhigh => ?_, fun a hlow => ?_,
    rfl, rfl, rfl, rfl⟩ <;> apply State.regRead_reset <;> bv_omega

end Sys2Proof.Machine
